-- ==== Sys2Proof/Word.lean ====
section
/-! DEFINITION. The word types of the decoder: what the spec treats as bits is a `BitVec`, what it treats as an
unsigned natural of a width that is a parameter of the instance (00_scope.md R8, R11) is a `Nat` with a bound kept as an
invariant. -/

namespace Sys2Proof

/-- The 32-bit command word (30_encoding.md R70). -/
abbrev CmdWord := BitVec 32

/-- The BRC field: three bits, 0 to 4 a level, 5 to 7 reserved (10_state.md R21, 30_encoding.md R72). -/
abbrev BrcField := BitVec 3

/-- `v` is an unsigned value of `w` bits (00_scope.md R11: "unsigned naturals below 2^width"). -/
abbrev Fits (w v : Nat) : Prop := v < 2 ^ w

end Sys2Proof
end

