-- ==== Sys2Proof/Config.lean ====
section
/-! DEFINITION. What one instance of the block fixes (00_scope.md R8, R9) and the free values (00_scope.md R13). -/

namespace Sys2Proof

/-- BOUND_CHECK: the granularity of the input-exhaustion check (00_scope.md R9). -/
inductive BoundCheck where
  /-- The check stands only at the start of each sample: the source's tolerance. -/
  | sampleBoundary
  /-- The check also stands before every code bit: the hardened check. -/
  | perBit
  deriving DecidableEq, Repr

/-- The parameters of an instance that a step depends on (00_scope.md R8). They are no state of the hardware
(10_state.md R20): `State` carries them as a constant that no step changes, so that a statement over all states holds for
every instance (notes/assumptions/1.md). -/
structure Params where
  /-- W_CNT: width in bits of BIT_COUNT, NOUT, CURSOR, SAMPLES and RESULT. -/
  wCnt : Nat
  /-- BITBUF_LEN: number of elements of BITS. -/
  bitbufLen : Nat
  /-- OUT_CAP: number of elements of OUT. -/
  outCap : Nat
  /-- ELEM_W: width in bits of one BITS element. -/
  elemW : Nat
  /-- OUT_W: width in bits of one OUT element. -/
  outW : Nat
  /-- BOUND_CHECK. -/
  boundCheck : BoundCheck
  deriving DecidableEq, Repr

/-- The ranges 00_scope.md R8 gives the parameters. -/
abbrev Params.Valid (p : Params) : Prop :=
  8 ≤ p.wCnt ∧ 1 ≤ p.bitbufLen ∧ p.bitbufLen ≤ 2 ^ (p.wCnt - 1) - 1 ∧
    1 ≤ p.outCap ∧ p.outCap ≤ 2 ^ (p.wCnt - 1) - 1 ∧ 1 ≤ p.elemW ∧ 5 ≤ p.outW

/-- The instance that `State.reset` stands for: the defaults of 00_scope.md R8 for W_CNT, ELEM_W, OUT_W and BOUND_CHECK.
DESIGN CHOICE (notes/assumptions/1.md): R8 gives BITBUF_LEN and OUT_CAP no default; 64 and 32 are the capacities that the
programs of 95_test_vectors.md run with. -/
def Params.standard : Params where
  wCnt := 32
  bitbufLen := 64
  outCap := 32
  elemW := 8
  outW := 8
  boundCheck := .sampleBoundary

namespace Config

/-- The draw of a read of the unwritten BITS element `index` (20_memory.md R52): a free value of `w` bits that nothing
constrains. `key` is the model's write counter `State.drawKey`, so a repeated read gives the same value until some write
intervenes (20_memory.md R60) and is free again after it (notes/assumptions/2.md). -/
opaque freeBits (w key index : Nat) : BitVec w

/-- The draw of a read of the unwritten OUT element `index` (42_host_interface.md R200), as `freeBits`. -/
opaque freeOut (w key index : Nat) : BitVec w

/-- BASE_ADDR, the bus address of register 0: OPEN (00_scope.md R8, 10_state.md R28), so a constant without a body. -/
opaque baseAddr : Nat

/-- The bus address of logical register `n` (10_state.md R28): BASE_ADDR + 4·n. -/
def busAddress (n : Nat) : Nat := baseAddr + 4 * n

end Config

end Sys2Proof
end

