-- ==== Sys2Proof/Syntax.lean ====
section
/-! DEFINITION. The instructions: one constructor per row of spec/opcode_table.json (30_encoding.md R81), and the host
transactions that carry the host's share of them (42_host_interface.md R190). -/

namespace Sys2Proof

/-- The five levels, a tagged choice over five fixed variants (00_scope.md R3). -/
inductive Level where
  | brc0
  | brc1
  | brc2
  | brc3
  | brc4
  deriving DecidableEq, Repr

/-- The six kinds of host transaction, as they stand on the host interface (42_host_interface.md R190, 30_encoding.md
R82, R84): a kind, a register number or element index, and for a write its value. A command word travels as a write of
register 0 (30_encoding.md R70). -/
inductive Txn where
  | hwr (n v : Nat)
  | hrd (n : Nat)
  | bwr (i v : Nat)
  | brd (i : Nat)
  | owr (j v : Nat)
  | ord (j : Nat)
  deriving DecidableEq, Repr

/-- The instructions of the block, in the order of the opcode table: the commands (30_encoding.md R71), the host
transactions (42_host_interface.md R191 to R200) and the 42 code words of the five tables (41_code_tables.md). -/
inductive Instr where
  /-- DECODE.BRC0 (40_decode_operation.md R95). -/
  | decodeBrc0
  /-- DECODE.BRC1 (40_decode_operation.md R96). -/
  | decodeBrc1
  /-- DECODE.BRC2 (40_decode_operation.md R97). -/
  | decodeBrc2
  /-- DECODE.BRC3 (40_decode_operation.md R98). -/
  | decodeBrc3
  /-- DECODE.BRC4 (40_decode_operation.md R99). -/
  | decodeBrc4
  /-- DECODE.BRC5, a reserved level (60_exceptions.md R212). -/
  | decodeBrc5
  /-- DECODE.BRC6, a reserved level (60_exceptions.md R212). -/
  | decodeBrc6
  /-- DECODE.BRC7, a reserved level (60_exceptions.md R212). -/
  | decodeBrc7
  /-- CMD.SET: store BRC, no command (42_host_interface.md R192). -/
  | cmdSet (brc : BrcField)
  /-- HWR n, v (R191). -/
  | hwr (n v : Nat)
  /-- HRD n (R196). -/
  | hrd (n : Nat)
  /-- BWR i, v (R197). -/
  | bwr (i v : Nat)
  /-- BRD i (R198). -/
  | brd (i : Nat)
  /-- OWR j, v (R199). -/
  | owr (j v : Nat)
  /-- ORD j (R200). -/
  | ord (j : Nat)
  /-- CW.BRC0.M0: `s0` (41_code_tables.md R121). -/
  | cwBrc0M0 (sign : Bool)
  /-- CW.BRC0.M1: `s10` (41_code_tables.md R122). -/
  | cwBrc0M1 (sign : Bool)
  /-- CW.BRC0.M2: `s110` (41_code_tables.md R123). -/
  | cwBrc0M2 (sign : Bool)
  /-- CW.BRC0.M3: `s111` (41_code_tables.md R124). -/
  | cwBrc0M3 (sign : Bool)
  /-- CW.BRC1.M0: `s0` (41_code_tables.md R127). -/
  | cwBrc1M0 (sign : Bool)
  /-- CW.BRC1.M1: `s10` (41_code_tables.md R128). -/
  | cwBrc1M1 (sign : Bool)
  /-- CW.BRC1.M2: `s110` (41_code_tables.md R129). -/
  | cwBrc1M2 (sign : Bool)
  /-- CW.BRC1.M3: `s1110` (41_code_tables.md R130). -/
  | cwBrc1M3 (sign : Bool)
  /-- CW.BRC1.M4: `s1111` (41_code_tables.md R131). -/
  | cwBrc1M4 (sign : Bool)
  /-- CW.BRC2.M0: `s0` (41_code_tables.md R134). -/
  | cwBrc2M0 (sign : Bool)
  /-- CW.BRC2.M1: `s10` (41_code_tables.md R135). -/
  | cwBrc2M1 (sign : Bool)
  /-- CW.BRC2.M2: `s110` (41_code_tables.md R136). -/
  | cwBrc2M2 (sign : Bool)
  /-- CW.BRC2.M3: `s1110` (41_code_tables.md R137). -/
  | cwBrc2M3 (sign : Bool)
  /-- CW.BRC2.M4: `s11110` (41_code_tables.md R138). -/
  | cwBrc2M4 (sign : Bool)
  /-- CW.BRC2.M5: `s111110` (41_code_tables.md R139). -/
  | cwBrc2M5 (sign : Bool)
  /-- CW.BRC2.M6: `s111111` (41_code_tables.md R140). -/
  | cwBrc2M6 (sign : Bool)
  /-- CW.BRC3.M0: `s00` (41_code_tables.md R143). -/
  | cwBrc3M0 (sign : Bool)
  /-- CW.BRC3.M1: `s01` (41_code_tables.md R144). -/
  | cwBrc3M1 (sign : Bool)
  /-- CW.BRC3.M2: `s10` (41_code_tables.md R145). -/
  | cwBrc3M2 (sign : Bool)
  /-- CW.BRC3.M3: `s110` (41_code_tables.md R146). -/
  | cwBrc3M3 (sign : Bool)
  /-- CW.BRC3.M4: `s1110` (41_code_tables.md R147). -/
  | cwBrc3M4 (sign : Bool)
  /-- CW.BRC3.M5: `s11110` (41_code_tables.md R148). -/
  | cwBrc3M5 (sign : Bool)
  /-- CW.BRC3.M6: `s111110` (41_code_tables.md R149). -/
  | cwBrc3M6 (sign : Bool)
  /-- CW.BRC3.M7: `s1111110` (41_code_tables.md R150). -/
  | cwBrc3M7 (sign : Bool)
  /-- CW.BRC3.M8: `s11111110` (41_code_tables.md R151). -/
  | cwBrc3M8 (sign : Bool)
  /-- CW.BRC3.M9: `s11111111` (41_code_tables.md R152). -/
  | cwBrc3M9 (sign : Bool)
  /-- CW.BRC4.M0: `s00` (41_code_tables.md R155). -/
  | cwBrc4M0 (sign : Bool)
  /-- CW.BRC4.M1: `s010` (41_code_tables.md R156). -/
  | cwBrc4M1 (sign : Bool)
  /-- CW.BRC4.M2: `s011` (41_code_tables.md R157). -/
  | cwBrc4M2 (sign : Bool)
  /-- CW.BRC4.M3: `s100` (41_code_tables.md R158). -/
  | cwBrc4M3 (sign : Bool)
  /-- CW.BRC4.M4: `s101` (41_code_tables.md R159). -/
  | cwBrc4M4 (sign : Bool)
  /-- CW.BRC4.M5: `s1100` (41_code_tables.md R160). -/
  | cwBrc4M5 (sign : Bool)
  /-- CW.BRC4.M6: `s1101` (41_code_tables.md R161). -/
  | cwBrc4M6 (sign : Bool)
  /-- CW.BRC4.M7: `s1110` (41_code_tables.md R162). -/
  | cwBrc4M7 (sign : Bool)
  /-- CW.BRC4.M8: `s11110` (41_code_tables.md R163). -/
  | cwBrc4M8 (sign : Bool)
  /-- CW.BRC4.M9: `s111110` (41_code_tables.md R164). -/
  | cwBrc4M9 (sign : Bool)
  /-- CW.BRC4.M10: `s11111100` (41_code_tables.md R165). -/
  | cwBrc4M10 (sign : Bool)
  /-- CW.BRC4.M11: `s11111101` (41_code_tables.md R166). -/
  | cwBrc4M11 (sign : Bool)
  /-- CW.BRC4.M12: `s111111100` (41_code_tables.md R167). -/
  | cwBrc4M12 (sign : Bool)
  /-- CW.BRC4.M13: `s111111101` (41_code_tables.md R168). -/
  | cwBrc4M13 (sign : Bool)
  /-- CW.BRC4.M14: `s111111110` (41_code_tables.md R169). -/
  | cwBrc4M14 (sign : Bool)
  /-- CW.BRC4.M15: `s111111111` (41_code_tables.md R170). -/
  | cwBrc4M15 (sign : Bool)
  deriving DecidableEq, Repr

end Sys2Proof
end

