-- ==== Sys2Proof/WellFormed.lean ====
section
/-! DEFINITION. Which instruction terms are ones of the spec, for an instance with parameters `p`. -/

namespace Sys2Proof

/-- The checks on an instruction's operands.

* HWR: register 0 is written by the command rows, not by HWR (30_encoding.md R71); a value of BIT_COUNT or NOUT has
  W_CNT bits (42_host_interface.md R193, R194); the value for a read-only or unimplemented number is any (R195).
* BWR, BRD: the index is below BITBUF_LEN and the value has ELEM_W bits (R197, R198).
* OWR, ORD: the index is below OUT_CAP and the value has OUT_W bits (R199, R200).
* The other rows have no operand that the spec bounds beyond its field. -/
def Instr.WF (p : Params) : Instr → Bool
  | .hwr n v => decide (n ≠ 0) && (decide (n ≠ 1 ∧ n ≠ 2) || decide (Fits p.wCnt v))
  | .bwr i v => decide (i < p.bitbufLen) && decide (Fits p.elemW v)
  | .brd i => decide (i < p.bitbufLen)
  | .owr j v => decide (j < p.outCap) && decide (Fits p.outW v)
  | .ord j => decide (j < p.outCap)
  | .hrd _ | .cmdSet _ => true
  | .decodeBrc0 | .decodeBrc1 | .decodeBrc2 | .decodeBrc3 | .decodeBrc4 | .decodeBrc5 | .decodeBrc6
  | .decodeBrc7 => true
  | .cwBrc0M0 _ | .cwBrc0M1 _ | .cwBrc0M2 _ | .cwBrc0M3 _ | .cwBrc1M0 _ | .cwBrc1M1 _ | .cwBrc1M2 _
  | .cwBrc1M3 _ | .cwBrc1M4 _ | .cwBrc2M0 _ | .cwBrc2M1 _ | .cwBrc2M2 _ | .cwBrc2M3 _ | .cwBrc2M4 _
  | .cwBrc2M5 _ | .cwBrc2M6 _ | .cwBrc3M0 _ | .cwBrc3M1 _ | .cwBrc3M2 _ | .cwBrc3M3 _ | .cwBrc3M4 _
  | .cwBrc3M5 _ | .cwBrc3M6 _ | .cwBrc3M7 _ | .cwBrc3M8 _ | .cwBrc3M9 _ | .cwBrc4M0 _ | .cwBrc4M1 _
  | .cwBrc4M2 _ | .cwBrc4M3 _ | .cwBrc4M4 _ | .cwBrc4M5 _ | .cwBrc4M6 _ | .cwBrc4M7 _ | .cwBrc4M8 _
  | .cwBrc4M9 _ | .cwBrc4M10 _ | .cwBrc4M11 _ | .cwBrc4M12 _ | .cwBrc4M13 _ | .cwBrc4M14 _ | .cwBrc4M15 _ => true

end Sys2Proof
end

