-- ==== Sys2Proof/Decode.lean ====
section
/-! DEFINITION. The decoder and the encoder: the five code tables and the matcher (41_code_tables.md), the symbols of the
bit sequence and the command word (30_encoding.md), total on any input and rejecting by name. -/

namespace Sys2Proof

/-! ## Code tables -/

/-- A code bit 0, the left branch (40_decode_operation.md R110). -/
abbrev O : Bool := false

/-- A code bit 1, the right branch. -/
abbrev I : Bool := true

/-- The level that a BRC field selects; 5 to 7 select none (30_encoding.md R71, R72). -/
def Level.ofField (b : BrcField) : Option Level :=
  match b.toNat with
  | 0 => some .brc0
  | 1 => some .brc1
  | 2 => some .brc2
  | 3 => some .brc3
  | 4 => some .brc4
  | _ => none

/-- The BRC field that selects a level. -/
def Level.field : Level → BrcField
  | .brc0 => 0
  | .brc1 => 1
  | .brc2 => 2
  | .brc3 => 3
  | .brc4 => 4

/-- K: the alphabet size (00_scope.md R8). -/
def Level.alphabet : Level → Nat
  | .brc0 => 4
  | .brc1 => 5
  | .brc2 => 7
  | .brc3 => 10
  | .brc4 => 16

/-- LMAX: the longest code, in bits after the sign (00_scope.md R8). -/
def Level.lmax : Level → Nat
  | .brc0 => 3
  | .brc1 => 4
  | .brc2 => 6
  | .brc3 => 8
  | .brc4 => 9

/-- LMIN: the shortest code (00_scope.md R8). -/
def Level.lmin : Level → Nat
  | .brc0 => 1
  | .brc1 => 1
  | .brc2 => 1
  | .brc3 => 2
  | .brc4 => 2

/-- TABLE: the code words of a level in magnitude order, each as read, first bit first (41_code_tables.md R120, R126,
R133, R142, R154). The magnitude of a code word is its position. -/
def Level.table : Level → List (List Bool)
  | .brc0 => [[O], [I, O], [I, I, O], [I, I, I]]
  | .brc1 => [[O], [I, O], [I, I, O], [I, I, I, O], [I, I, I, I]]
  | .brc2 => [[O], [I, O], [I, I, O], [I, I, I, O], [I, I, I, I, O], [I, I, I, I, I, O], [I, I, I, I, I, I]]
  | .brc3 => [[O, O], [O, I], [I, O], [I, I, O], [I, I, I, O], [I, I, I, I, O], [I, I, I, I, I, O],
      [I, I, I, I, I, I, O], [I, I, I, I, I, I, I, O], [I, I, I, I, I, I, I, I]]
  | .brc4 => [[O, O], [O, I, O], [O, I, I], [I, O, O], [I, O, I], [I, I, O, O], [I, I, O, I], [I, I, I, O],
      [I, I, I, I, O], [I, I, I, I, I, O], [I, I, I, I, I, I, O, O], [I, I, I, I, I, I, O, I],
      [I, I, I, I, I, I, I, O, O], [I, I, I, I, I, I, I, O, I], [I, I, I, I, I, I, I, I, O],
      [I, I, I, I, I, I, I, I, I]]

/-- `val(c)`: the integer value of a code string, the first bit read the most significant (00_scope.md R10), started from
the value `acc` of the bits already read. -/
def valFrom : Nat → List Bool → Nat
  | acc, [] => acc
  | acc, b :: rest => valFrom (2 * acc + b.toNat) rest

/-- `val(c)` (00_scope.md R10). -/
def val (c : List Bool) : Nat := valFrom 0 c

/-- The position, counted from `m`, of the code word of length `len` and value `acc` in a list of code words. -/
def findCode (len acc : Nat) : Nat → List (List Bool) → Option Nat
  | _, [] => none
  | m, c :: rest => if c.length = len ∧ val c = acc then some m else findCode len acc (m + 1) rest

/-- `match(brc, len, acc)`: the magnitude of the code word of that length and value, if the table has one
(41_code_tables.md R175). -/
def matchCode (lv : Level) (len acc : Nat) : Option Nat := findCode len acc 0 lv.table

/-- `(len, acc)` is an internal node of the level's tree: a proper prefix of some code word (41_code_tables.md R176). -/
def isInternal (lv : Level) (len acc : Nat) : Bool :=
  lv.table.any fun c => decide (len < c.length) && decide (val (c.take len) = acc)

/-! ## The code-word rows -/

/-- The row of a level's code word of magnitude `m` behind a sign bit. -/
def codeInstr (lv : Level) (m : Nat) (sign : Bool) : Option Instr :=
  match lv, m, sign with
  | .brc0, 0, sign => some (.cwBrc0M0 sign)
  | .brc0, 1, sign => some (.cwBrc0M1 sign)
  | .brc0, 2, sign => some (.cwBrc0M2 sign)
  | .brc0, 3, sign => some (.cwBrc0M3 sign)
  | .brc1, 0, sign => some (.cwBrc1M0 sign)
  | .brc1, 1, sign => some (.cwBrc1M1 sign)
  | .brc1, 2, sign => some (.cwBrc1M2 sign)
  | .brc1, 3, sign => some (.cwBrc1M3 sign)
  | .brc1, 4, sign => some (.cwBrc1M4 sign)
  | .brc2, 0, sign => some (.cwBrc2M0 sign)
  | .brc2, 1, sign => some (.cwBrc2M1 sign)
  | .brc2, 2, sign => some (.cwBrc2M2 sign)
  | .brc2, 3, sign => some (.cwBrc2M3 sign)
  | .brc2, 4, sign => some (.cwBrc2M4 sign)
  | .brc2, 5, sign => some (.cwBrc2M5 sign)
  | .brc2, 6, sign => some (.cwBrc2M6 sign)
  | .brc3, 0, sign => some (.cwBrc3M0 sign)
  | .brc3, 1, sign => some (.cwBrc3M1 sign)
  | .brc3, 2, sign => some (.cwBrc3M2 sign)
  | .brc3, 3, sign => some (.cwBrc3M3 sign)
  | .brc3, 4, sign => some (.cwBrc3M4 sign)
  | .brc3, 5, sign => some (.cwBrc3M5 sign)
  | .brc3, 6, sign => some (.cwBrc3M6 sign)
  | .brc3, 7, sign => some (.cwBrc3M7 sign)
  | .brc3, 8, sign => some (.cwBrc3M8 sign)
  | .brc3, 9, sign => some (.cwBrc3M9 sign)
  | .brc4, 0, sign => some (.cwBrc4M0 sign)
  | .brc4, 1, sign => some (.cwBrc4M1 sign)
  | .brc4, 2, sign => some (.cwBrc4M2 sign)
  | .brc4, 3, sign => some (.cwBrc4M3 sign)
  | .brc4, 4, sign => some (.cwBrc4M4 sign)
  | .brc4, 5, sign => some (.cwBrc4M5 sign)
  | .brc4, 6, sign => some (.cwBrc4M6 sign)
  | .brc4, 7, sign => some (.cwBrc4M7 sign)
  | .brc4, 8, sign => some (.cwBrc4M8 sign)
  | .brc4, 9, sign => some (.cwBrc4M9 sign)
  | .brc4, 10, sign => some (.cwBrc4M10 sign)
  | .brc4, 11, sign => some (.cwBrc4M11 sign)
  | .brc4, 12, sign => some (.cwBrc4M12 sign)
  | .brc4, 13, sign => some (.cwBrc4M13 sign)
  | .brc4, 14, sign => some (.cwBrc4M14 sign)
  | .brc4, 15, sign => some (.cwBrc4M15 sign)
  | _, _, _ => none

/-- The level, magnitude and sign of a code-word row; none for the other rows. -/
def Instr.codeWord : Instr → Option (Level × Nat × Bool)
  | .cwBrc0M0 sign => some (.brc0, 0, sign)
  | .cwBrc0M1 sign => some (.brc0, 1, sign)
  | .cwBrc0M2 sign => some (.brc0, 2, sign)
  | .cwBrc0M3 sign => some (.brc0, 3, sign)
  | .cwBrc1M0 sign => some (.brc1, 0, sign)
  | .cwBrc1M1 sign => some (.brc1, 1, sign)
  | .cwBrc1M2 sign => some (.brc1, 2, sign)
  | .cwBrc1M3 sign => some (.brc1, 3, sign)
  | .cwBrc1M4 sign => some (.brc1, 4, sign)
  | .cwBrc2M0 sign => some (.brc2, 0, sign)
  | .cwBrc2M1 sign => some (.brc2, 1, sign)
  | .cwBrc2M2 sign => some (.brc2, 2, sign)
  | .cwBrc2M3 sign => some (.brc2, 3, sign)
  | .cwBrc2M4 sign => some (.brc2, 4, sign)
  | .cwBrc2M5 sign => some (.brc2, 5, sign)
  | .cwBrc2M6 sign => some (.brc2, 6, sign)
  | .cwBrc3M0 sign => some (.brc3, 0, sign)
  | .cwBrc3M1 sign => some (.brc3, 1, sign)
  | .cwBrc3M2 sign => some (.brc3, 2, sign)
  | .cwBrc3M3 sign => some (.brc3, 3, sign)
  | .cwBrc3M4 sign => some (.brc3, 4, sign)
  | .cwBrc3M5 sign => some (.brc3, 5, sign)
  | .cwBrc3M6 sign => some (.brc3, 6, sign)
  | .cwBrc3M7 sign => some (.brc3, 7, sign)
  | .cwBrc3M8 sign => some (.brc3, 8, sign)
  | .cwBrc3M9 sign => some (.brc3, 9, sign)
  | .cwBrc4M0 sign => some (.brc4, 0, sign)
  | .cwBrc4M1 sign => some (.brc4, 1, sign)
  | .cwBrc4M2 sign => some (.brc4, 2, sign)
  | .cwBrc4M3 sign => some (.brc4, 3, sign)
  | .cwBrc4M4 sign => some (.brc4, 4, sign)
  | .cwBrc4M5 sign => some (.brc4, 5, sign)
  | .cwBrc4M6 sign => some (.brc4, 6, sign)
  | .cwBrc4M7 sign => some (.brc4, 7, sign)
  | .cwBrc4M8 sign => some (.brc4, 8, sign)
  | .cwBrc4M9 sign => some (.brc4, 9, sign)
  | .cwBrc4M10 sign => some (.brc4, 10, sign)
  | .cwBrc4M11 sign => some (.brc4, 11, sign)
  | .cwBrc4M12 sign => some (.brc4, 12, sign)
  | .cwBrc4M13 sign => some (.brc4, 13, sign)
  | .cwBrc4M14 sign => some (.brc4, 14, sign)
  | .cwBrc4M15 sign => some (.brc4, 15, sign)
  | .hwr _ _ | .hrd _ | .bwr _ _ | .brd _ | .owr _ _ | .ord _ | .cmdSet _ => none
  | .decodeBrc0 | .decodeBrc1 | .decodeBrc2 | .decodeBrc3 | .decodeBrc4 | .decodeBrc5 | .decodeBrc6
  | .decodeBrc7 => none

/-! ## What is decoded -/

/-- What the block decodes: a transaction on its host interface, a command word among them (30_encoding.md R70, R84), or
the bits of a symbol under the running command's BRC field (30_encoding.md R74). -/
inductive Encoded where
  | txn (t : Txn)
  | symbol (brc : BrcField) (bits : List Bool)
  deriving DecidableEq, Repr

/-- Why a symbol is not decoded. -/
inductive DecodeError where
  /-- The BRC field is 5, 6 or 7: no table (30_encoding.md R72). -/
  | reservedLevel
  /-- The bits end before a code word is complete (30_encoding.md R79). -/
  | endOfBits
  /-- Bits are left after the symbol, where exactly one symbol was asked for. -/
  | extraBits
  /-- The matcher gave a magnitude that no row has; the tables give none. -/
  | noRow
  deriving DecidableEq, Repr

/-- The operation that a command word selects (30_encoding.md R71). Bits 30 to 3 take no part (R73). -/
def decodeCmd (w : CmdWord) : Instr :=
  if w.getLsbD 31 then
    match (w.extractLsb' 0 3).toNat with
    | 0 => .decodeBrc0
    | 1 => .decodeBrc1
    | 2 => .decodeBrc2
    | 3 => .decodeBrc3
    | 4 => .decodeBrc4
    | 5 => .decodeBrc5
    | 6 => .decodeBrc6
    | _ => .decodeBrc7
  else .cmdSet (w.extractLsb' 0 3)

/-- The row of a host transaction. A 32-bit value written to register 0 is a command word (30_encoding.md R70); a wider
one is no command word and stays an ill-formed HWR, which its meaning refuses (notes/assumptions/9.md). -/
def decodeTxn : Txn → Instr
  | .hwr n v => if n = 0 ∧ Fits 32 v then decodeCmd (BitVec.ofNat 32 v) else .hwr n v
  | .hrd n => .hrd n
  | .bwr i v => .bwr i v
  | .brd i => .brd i
  | .owr j v => .owr j v
  | .ord j => .ord j

/-- The walk of a level's prefix tree from the node `(len, acc)` (30_encoding.md R78): one bit at a time until the first
node that is a code word. It gives the row and the bits that follow the symbol. -/
def decodeWalk (lv : Level) (sign : Bool) : Nat → Nat → List Bool → Except DecodeError (Instr × List Bool)
  | _, _, [] => .error .endOfBits
  | len, acc, b :: rest =>
    match matchCode lv (len + 1) (2 * acc + b.toNat) with
    | none => decodeWalk lv sign (len + 1) (2 * acc + b.toNat) rest
    | some m =>
      match codeInstr lv m sign with
      | some i => .ok (i, rest)
      | none => .error .noRow

/-- A symbol at the head of a bit sequence: a sign bit, then a code word (30_encoding.md R74, R78). -/
def decodeSymbol (brc : BrcField) (bits : List Bool) : Except DecodeError (Instr × List Bool) :=
  match Level.ofField brc with
  | none => .error .reservedLevel
  | some lv =>
    match bits with
    | [] => .error .endOfBits
    | sign :: rest => decodeWalk lv sign 0 0 rest

/-- The decoder. -/
def decode : Encoded → Except DecodeError Instr
  | .txn t => .ok (decodeTxn t)
  | .symbol brc bits =>
    match decodeSymbol brc bits with
    | .ok (i, []) => .ok i
    | .ok (_, _ :: _) => .error .extraBits
    | .error e => .error e

/-! ## The encoder -/

/-- The encoding of an instruction, from the patterns of 30_encoding.md R70, R71 and R74 and the code words of
41_code_tables.md; the reserved command bits are written 0. -/
def encode : Instr → Encoded
  | .decodeBrc0 => .txn (.hwr 0 0x80000000)
  | .decodeBrc1 => .txn (.hwr 0 0x80000001)
  | .decodeBrc2 => .txn (.hwr 0 0x80000002)
  | .decodeBrc3 => .txn (.hwr 0 0x80000003)
  | .decodeBrc4 => .txn (.hwr 0 0x80000004)
  | .decodeBrc5 => .txn (.hwr 0 0x80000005)
  | .decodeBrc6 => .txn (.hwr 0 0x80000006)
  | .decodeBrc7 => .txn (.hwr 0 0x80000007)
  | .cmdSet brc => .txn (.hwr 0 brc.toNat)
  | .hwr n v => .txn (.hwr n v)
  | .hrd n => .txn (.hrd n)
  | .bwr i v => .txn (.bwr i v)
  | .brd i => .txn (.brd i)
  | .owr j v => .txn (.owr j v)
  | .ord j => .txn (.ord j)
  | .cwBrc0M0 sign => .symbol 0 (sign :: [O])
  | .cwBrc0M1 sign => .symbol 0 (sign :: [I, O])
  | .cwBrc0M2 sign => .symbol 0 (sign :: [I, I, O])
  | .cwBrc0M3 sign => .symbol 0 (sign :: [I, I, I])
  | .cwBrc1M0 sign => .symbol 1 (sign :: [O])
  | .cwBrc1M1 sign => .symbol 1 (sign :: [I, O])
  | .cwBrc1M2 sign => .symbol 1 (sign :: [I, I, O])
  | .cwBrc1M3 sign => .symbol 1 (sign :: [I, I, I, O])
  | .cwBrc1M4 sign => .symbol 1 (sign :: [I, I, I, I])
  | .cwBrc2M0 sign => .symbol 2 (sign :: [O])
  | .cwBrc2M1 sign => .symbol 2 (sign :: [I, O])
  | .cwBrc2M2 sign => .symbol 2 (sign :: [I, I, O])
  | .cwBrc2M3 sign => .symbol 2 (sign :: [I, I, I, O])
  | .cwBrc2M4 sign => .symbol 2 (sign :: [I, I, I, I, O])
  | .cwBrc2M5 sign => .symbol 2 (sign :: [I, I, I, I, I, O])
  | .cwBrc2M6 sign => .symbol 2 (sign :: [I, I, I, I, I, I])
  | .cwBrc3M0 sign => .symbol 3 (sign :: [O, O])
  | .cwBrc3M1 sign => .symbol 3 (sign :: [O, I])
  | .cwBrc3M2 sign => .symbol 3 (sign :: [I, O])
  | .cwBrc3M3 sign => .symbol 3 (sign :: [I, I, O])
  | .cwBrc3M4 sign => .symbol 3 (sign :: [I, I, I, O])
  | .cwBrc3M5 sign => .symbol 3 (sign :: [I, I, I, I, O])
  | .cwBrc3M6 sign => .symbol 3 (sign :: [I, I, I, I, I, O])
  | .cwBrc3M7 sign => .symbol 3 (sign :: [I, I, I, I, I, I, O])
  | .cwBrc3M8 sign => .symbol 3 (sign :: [I, I, I, I, I, I, I, O])
  | .cwBrc3M9 sign => .symbol 3 (sign :: [I, I, I, I, I, I, I, I])
  | .cwBrc4M0 sign => .symbol 4 (sign :: [O, O])
  | .cwBrc4M1 sign => .symbol 4 (sign :: [O, I, O])
  | .cwBrc4M2 sign => .symbol 4 (sign :: [O, I, I])
  | .cwBrc4M3 sign => .symbol 4 (sign :: [I, O, O])
  | .cwBrc4M4 sign => .symbol 4 (sign :: [I, O, I])
  | .cwBrc4M5 sign => .symbol 4 (sign :: [I, I, O, O])
  | .cwBrc4M6 sign => .symbol 4 (sign :: [I, I, O, I])
  | .cwBrc4M7 sign => .symbol 4 (sign :: [I, I, I, O])
  | .cwBrc4M8 sign => .symbol 4 (sign :: [I, I, I, I, O])
  | .cwBrc4M9 sign => .symbol 4 (sign :: [I, I, I, I, I, O])
  | .cwBrc4M10 sign => .symbol 4 (sign :: [I, I, I, I, I, I, O, O])
  | .cwBrc4M11 sign => .symbol 4 (sign :: [I, I, I, I, I, I, O, I])
  | .cwBrc4M12 sign => .symbol 4 (sign :: [I, I, I, I, I, I, I, O, O])
  | .cwBrc4M13 sign => .symbol 4 (sign :: [I, I, I, I, I, I, I, O, I])
  | .cwBrc4M14 sign => .symbol 4 (sign :: [I, I, I, I, I, I, I, I, O])
  | .cwBrc4M15 sign => .symbol 4 (sign :: [I, I, I, I, I, I, I, I, I])

/-! ## Words as the opcode table numbers them -/

/-- The `n` low bits of `w`, the most significant first: a symbol's bits in the order in which they are read, for the
number that 30_encoding.md R75 makes of it. -/
def bitsMsbFirst : Nat → Nat → List Bool
  | 0, _ => []
  | n + 1, w => (w / 2 ^ n % 2 = 1) :: bitsMsbFirst n w

/-- The levels, in the order in which `decodeTableWord` tries them. -/
def allLevels : List Level := [.brc0, .brc1, .brc2, .brc3, .brc4]

/-- A symbol of exactly `n` bits with the number `w`, under the first level that decodes it whole. -/
def symbolOfLength (n w : Nat) : List Level → Option Instr
  | [] => none
  | lv :: rest =>
    match decode (.symbol lv.field (bitsMsbFirst n w)) with
    | .ok i => some i
    | .error _ => symbolOfLength n w rest

/-- A symbol whose number is `w` and whose sign bit is `sign`, of the shortest of the lengths given at which some level
decodes it. -/
def symbolOfLengths (sign w : Nat) : List Nat → Option Instr
  | [] => none
  | n :: rest =>
    if w / 2 ^ (n - 1) = sign then
      match symbolOfLength n w allLevels with
      | some i => some i
      | none => symbolOfLengths sign w rest
    else symbolOfLengths sign w rest

/-- A symbol whose number is `w`: a table word carries neither the symbol's length nor its level, so sign 0 is tried
before sign 1, and each at the shortest length first (notes/assumptions/7.md). -/
def symbolOfWord (w : Nat) (lengths : List Nat) : Option Instr :=
  match symbolOfLengths 0 w lengths with
  | some i => some i
  | none => symbolOfLengths 1 w lengths

/-- The instruction of a word of the opcode table. A 32-bit word is a command word (30_encoding.md R70). A word of one or
two bytes holds the number of a symbol (R75), of 2 to 8 bits in one byte and of 9 or 10 bits in two. A length that is no
whole number of bytes is the symbol's own. -/
def decodeTableWord (nbits w : Nat) : Option Instr :=
  if nbits = 32 then
    if Fits 32 w then some (decodeCmd (BitVec.ofNat 32 w)) else none
  else if nbits = 8 then symbolOfWord w [2, 3, 4, 5, 6, 7, 8]
  else if nbits = 16 then symbolOfWord w [9, 10]
  else if nbits ≤ 10 ∧ Fits nbits w then symbolOfLength nbits w allLevels
  else none

end Sys2Proof
end

