-- ==== Sys2Proof/Machine/State.lean ====
section
/-! DEFINITION. The state of one decoder instance (10_state.md R20 to R42), the events that move it, why a step can stop,
and the state after reset. -/

namespace Sys2Proof.Machine

/-- PHASE (10_state.md R29). -/
inductive Phase where
  | idle
  | sign
  | code
  deriving DecidableEq, Repr

/-- The error codes of STATUS.ERR that are produced (60_exceptions.md R211); codes 4 to 7 never are. -/
inductive ErrCode where
  | noError
  | brcInvalid
  | range
  | overrun
  deriving DecidableEq, Repr

/-- How a command ended: with the outcome that STATUS, CURSOR and SAMPLES then showed (60_exceptions.md R225), or by a
reset, with no result (70_reset_and_hazards.md R241). -/
inductive CommandEnd where
  | ended (cursor samples : Nat) (complete : Bool) (err : ErrCode)
  | byReset
  deriving DecidableEq, Repr

/-- One entry of the ghost list (60_exceptions.md R225). -/
structure CommandRecord where
  brc : BrcField
  bitCount : Nat
  nout : Nat
  outcome : CommandEnd
  deriving DecidableEq, Repr

/-- One transition of the run's total order (20_memory.md R64), as the HOST's side of the model holds it. -/
inductive Event where
  /-- The HOST performs a transaction (42_host_interface.md R190). -/
  | txn (t : Txn)
  /-- DEC is scheduled for one step; it has none while STATUS.BUSY = 0 (40_decode_operation.md R92). -/
  | dec
  /-- Reset (70_reset_and_hazards.md R240). -/
  | reset
  deriving DecidableEq, Repr

/-- An element memory (10_state.md R33, R34): the written elements as (index, value) pairs, the indices strictly rising.
An index that is not listed is an unwritten element. -/
abbrev Mem := List (Nat × Nat)

/-- The canonical form of an element memory. Every listed element is a written one, so no entry equals what an unlisted
index reads as. -/
abbrev Mem.wf (m : Mem) : Prop := m.Pairwise fun x y => x.1 < y.1

/-- The machine. The fields from `cmdBrc` to `out` are the hardware's state (10_state.md R20). `ghost` is the list that
60_exceptions.md R225 asks the model to keep. The last four are the model's own (notes/assumptions/1.md, 2.md, 3.md and
5.md). -/
structure State where
  /-- CMD.BRC (10_state.md R21). -/
  cmdBrc : BrcField
  /-- BIT_COUNT (R22). -/
  bitCount : Nat
  /-- NOUT (R23). -/
  nout : Nat
  /-- STATUS.BUSY (R24). -/
  busy : Bool
  /-- STATUS.DONE (R24). -/
  done : Bool
  /-- STATUS.COMPLETE (R24). -/
  complete : Bool
  /-- STATUS.ERR (R24). -/
  err : ErrCode
  /-- STATUS.BRC (R24). -/
  stBrc : BrcField
  /-- CURSOR (R25). -/
  cursor : Nat
  /-- SAMPLES (R26). -/
  samples : Nat
  /-- PHASE (R29). -/
  phase : Phase
  /-- SIGNL (R30). -/
  signl : Bool
  /-- ACC (R31). -/
  acc : BitVec 9
  /-- LEN (R32). -/
  len : BitVec 4
  /-- BITS (R33). -/
  bits : Mem
  /-- OUT (R34). -/
  out : Mem
  /-- The ghost list of command outcomes, the latest last (60_exceptions.md R225). -/
  ghost : List CommandRecord
  /-- The parameters of the instance (00_scope.md R8); no step changes them. -/
  par : Params
  /-- The transitions that are to happen next, the first first (20_memory.md R64). -/
  inbox : List Event
  /-- The value that the latest host read returned. -/
  reply : Option Nat
  /-- The number of transitions so far that wrote something: the key of the free values (00_scope.md R13). -/
  drawKey : Nat
  deriving DecidableEq, Repr

/-- Why the machine stops with a fault. The spec's own errors (60_exceptions.md R211) are no faults of this type: they
are recorded in STATUS and the machine goes on. Each of these is raised only in states that no run reaches, which the
invariant of 10_state.md R41 rules out. -/
inductive Fault where
  /-- Raised by a DEC step in a state with STATUS.BUSY = 1 and PHASE = IDLE, for which no rule gives a step; 10_state.md
  R41.1 says that no such state is reached. Safe: nothing false can be proved of a run from it. -/
  | busyWhileIdle
  /-- Raised by a code-bit step in a state whose STATUS.BRC is 5 to 7, which has no table; 10_state.md R41.6 says that no
  such state is running. Safe. -/
  | noTable
  /-- Raised by `MemWrite` at an OUT index of OUT_CAP or above, which does not exist; 20_memory.md R55 says that DEC never
  makes such a write. Safe. -/
  | outIndexBeyondCapacity
  deriving DecidableEq, Repr

/-- Why the machine gives an instruction no meaning. -/
inductive Refusal where
  /-- Raised by an arm of `exec` whose instruction has no meaning yet. Safe. -/
  | notModelled (mnemonic : String)
  /-- Raised by BWR and BRD at an index of BITBUF_LEN or above (42_host_interface.md R190: refused). Safe. -/
  | bitsIndexOutOfRange
  /-- Raised by OWR and ORD at an index of OUT_CAP or above (42_host_interface.md R190: refused). Safe. -/
  | outIndexOutOfRange
  /-- Raised by HWR, BWR and OWR for a value that has more bits than the register or element: no transaction of the spec
  (42_host_interface.md R191 to R199). Safe. -/
  | valueTooWide
  /-- Raised by a code-word instruction in a state whose next code-bit step does not recognise that code word
  (41_code_tables.md R175); `step` runs a code word only where the matcher gives it. Safe. -/
  | codeWordNotRecognised
  deriving DecidableEq, Repr

/-- The outcomes of a step of this machine. -/
abbrev Out := Host.Outcome State Fault Refusal

/-- The state after reset of an instance with parameters `p` (10_state.md R42, 70_reset_and_hazards.md R240), with
nothing run before it and no transition pending. -/
def State.resetOf (p : Params) : State where
  cmdBrc := 0
  bitCount := 0
  nout := 0
  busy := false
  done := false
  complete := false
  err := .noError
  stBrc := 0
  cursor := 0
  samples := 0
  phase := .idle
  signl := false
  acc := 0
  len := 0
  bits := []
  out := []
  ghost := []
  par := p
  inbox := []
  reply := none
  drawKey := 0

/-- The state after reset of the instance `Params.standard`. -/
def State.reset : State := State.resetOf Params.standard

end Sys2Proof.Machine
end

