-- ==== Sys2Proof/Machine/Flags.lean ====
section
/-! DEFINITION. What is computed from the state without being stored: the STATUS and CMD words, RESULT, the `done`
output, and the two stop conditions. -/

namespace Sys2Proof.Machine

/-- The code of an error in STATUS.ERR (60_exceptions.md R211). -/
def ErrCode.code : ErrCode → BitVec 3
  | .noError => 0
  | .brcInvalid => 1
  | .range => 2
  | .overrun => 3

/-- STATUS.MODE, hardwired (10_state.md R24). -/
def modeBit (p : Params) : Bool := decide (p.boundCheck = .perBit)

/-- The STATUS word (10_state.md R24), its fields from bit 31 down to bit 0. -/
def State.statusWord (s : State) : BitVec 32 :=
  0#13 ++ s.stBrc ++ 0#7 ++ BitVec.ofBool (modeBit s.par) ++ 0#1 ++ s.err.code ++ 0#1 ++
    BitVec.ofBool s.complete ++ BitVec.ofBool s.done ++ BitVec.ofBool s.busy

/-- The CMD word as it reads: START and the reserved bits 0 (10_state.md R21, 30_encoding.md R73). -/
def State.cmdWord (s : State) : BitVec 32 := 0#29 ++ s.cmdBrc

/-- RESULT, the W_CNT-bit register (10_state.md R27). -/
def State.result (s : State) : Nat :=
  if s.complete then s.cursor else (2 ^ s.par.wCnt - s.cursor) % 2 ^ s.par.wCnt

/-- A W_CNT-bit value read as a two's complement integer (00_scope.md R11). -/
def signedOf (w v : Nat) : Int := if v < 2 ^ (w - 1) then v else (v : Int) - 2 ^ w

/-- The output signal `done` (10_state.md R40). -/
def State.doneOutput (s : State) : Bool := s.done

/-- A run is fault-free when no command of it ended with an error (60_exceptions.md R225). -/
def CommandRecord.isError (r : CommandRecord) : Bool :=
  match r.outcome with
  | .ended _ _ _ e => decide (e ≠ .noError)
  | .byReset => false

/-- The stop conditions of the sample-start step (40_decode_operation.md R93). -/
def State.sampleStop (s : State) : Bool := decide (s.samples = s.nout) || decide (s.cursor ≥ s.bitCount)

/-- The exhaustion test of the code-bit step, made in PER_BIT mode only (40_decode_operation.md R94). -/
def State.exhausted (s : State) : Bool :=
  decide (s.par.boundCheck = .perBit) && decide (s.cursor ≥ s.bitCount)

end Sys2Proof.Machine
end

