-- ==== Sys2Proof/Machine/Ops.lean ====
section
/-! DEFINITION. The named operations over memories and registers: element reads and writes, `ReadBit`, `MemWrite`, the
end of a command, the one operation that raises an error, START and reset. -/

namespace Sys2Proof.Machine

/-! ## Element memories -/

/-- The value of a written element; none for an unwritten one. -/
def Mem.read? : Mem → Nat → Option Nat
  | [], _ => none
  | (b, v) :: rest, a => if a = b then some v else Mem.read? rest a

/-- Writes one element and keeps the canonical form. -/
def Mem.write : Mem → Nat → Nat → Mem
  | [], a, v => [(a, v)]
  | (b, w) :: rest, a, v =>
    if a < b then (a, v) :: (b, w) :: rest
    else if a = b then (a, v) :: rest
    else (b, w) :: Mem.write rest a v

/-- `MemRead(BITS, i)` (20_memory.md R52): the element's value, or a draw if it is unwritten. It changes nothing. -/
def State.readBits (s : State) (i : Nat) : Nat :=
  match Mem.read? s.bits i with
  | some v => v
  | none => (Config.freeBits s.par.elemW s.drawKey i).toNat

/-- The value of OUT[j], or a draw if it is unwritten (42_host_interface.md R200). -/
def State.readOut (s : State) (j : Nat) : Nat :=
  match Mem.read? s.out j with
  | some v => v
  | none => (Config.freeOut s.par.outW s.drawKey j).toNat

/-- `ReadBit(i)` (20_memory.md R53): nonzero is 1; none where the index does not exist, for which the step raises
OVERRUN. -/
def State.readBit (s : State) (i : Nat) : Option Bool :=
  if i ≥ s.par.bitbufLen then none else some (decide (s.readBits i ≠ 0))

/-! ## Transitions -/

/-- A transition that writes: its next state, with the write counter of the free values advanced
(notes/assumptions/2.md). -/
def State.commit (s : State) : Out := .next { s with drawKey := s.drawKey + 1 }

/-- Appends the outcome of the command that ends, as STATUS, CURSOR and SAMPLES show it (60_exceptions.md R225). -/
def State.recordEnd (s : State) : State :=
  { s with
    ghost := s.ghost ++
      [{ brc := s.stBrc, bitCount := s.bitCount, nout := s.nout,
         outcome := .ended s.cursor s.samples s.complete s.err }] }

/-- `finish(c)` (40_decode_operation.md R100). -/
def State.finish (c : Bool) (s : State) : State :=
  State.recordEnd { s with complete := c, busy := false, done := true, phase := .idle }

/-- `raise Error(code)` (60_exceptions.md R211), the one operation that takes an error: there is no trap, no vector and
no saved context beyond STATUS, CURSOR and SAMPLES (R217). -/
def State.raiseError (e : ErrCode) (s : State) : State :=
  State.recordEnd { s with err := e, complete := false, busy := false, done := true, phase := .idle }

/-- What START writes before its checks (40_decode_operation.md R91). -/
def State.latch (brc : BrcField) (s : State) : State :=
  { s with
    cmdBrc := brc, stBrc := brc, done := false, complete := false, err := .noError, cursor := 0, samples := 0 }

/-- START (40_decode_operation.md R91), with the priority of 60_exceptions.md R215. -/
def State.start (brc : BrcField) (s : State) : State :=
  if brc.toNat > 4 then State.raiseError .brcInvalid (State.latch brc s)
  else if s.bitCount > s.par.bitbufLen ∨ s.nout > s.par.outCap then State.raiseError .range (State.latch brc s)
  else { State.latch brc s with busy := true, phase := .sign }

/-- ACC after one more code bit (40_decode_operation.md R94). -/
def State.nextAcc (s : State) (b : Bool) : BitVec 9 := (s.acc <<< 1) ||| (BitVec.ofBool b).setWidth 9

/-- LEN after one more code bit (40_decode_operation.md R94). -/
def State.nextLen (s : State) : BitVec 4 := s.len + 1

/-- The code bit `b` is taken: CURSOR, ACC and LEN move to the child node (40_decode_operation.md R94, R110). -/
def State.takeCodeBit (b : Bool) (s : State) : State :=
  { s with cursor := s.cursor + 1, acc := s.nextAcc b, len := s.nextLen }

/-- `MemWrite(OUT, SAMPLES, v)`, the sample count and the return to the sample start (40_decode_operation.md R94,
20_memory.md R55). `v` is zero-extended, so its number is stored as it is. -/
def State.writeSample (v : Nat) (s : State) : Out :=
  if s.samples < s.par.outCap then
    State.commit { s with out := Mem.write s.out s.samples v, samples := s.samples + 1, phase := .sign }
  else .fault .outIndexBeyondCapacity

/-- Reset (70_reset_and_hazards.md R240, R241): every register and internal state at its reset value, every element
unwritten; a running command is recorded as ended by reset. The parameters, the pending transitions, the latest reply and
the ghost list are no state of the hardware and stay (notes/assumptions/13.md). -/
def State.applyReset (s : State) : State :=
  { State.resetOf s.par with
    ghost := if s.busy then
        s.ghost ++ [{ brc := s.stBrc, bitCount := s.bitCount, nout := s.nout, outcome := .byReset }]
      else s.ghost
    inbox := s.inbox
    reply := s.reply
    drawKey := s.drawKey }

end Sys2Proof.Machine
end

