-- ==== Sys2Proof/Machine/Operands.lean ====
section
/-! DEFINITION. Operand forms: register numbers of the host interface, and the output value of a symbol. -/

namespace Sys2Proof.Machine

/-- The value of register `n` (42_host_interface.md R196, 10_state.md R21 to R28). -/
def State.readReg (s : State) (n : Nat) : Nat :=
  match n with
  | 0 => s.cmdWord.toNat
  | 1 => s.bitCount
  | 2 => s.nout
  | 3 => s.statusWord.toNat
  | 4 => s.cursor
  | 5 => s.samples
  | 6 => s.result
  | _ => 0

/-- A value written to register `n` is one of its width: 32 bits for CMD, W_CNT bits for BIT_COUNT and NOUT
(42_host_interface.md R192 to R194), any for the numbers whose writes have no effect (R195). -/
def regValueFits (p : Params) (n v : Nat) : Bool :=
  match n with
  | 0 => decide (Fits 32 v)
  | 1 => decide (Fits p.wCnt v)
  | 2 => decide (Fits p.wCnt v)
  | _ => true

/-- A command word written to CMD: a START or CMD.SET, dropped while busy (42_host_interface.md R191, R192). -/
def State.writeCmd (start : Bool) (brc : BrcField) (s : State) : Out :=
  if s.busy then .next s
  else if start then State.commit (State.start brc s)
  else State.commit { s with cmdBrc := brc }

/-- A value written to register `n` (42_host_interface.md R191). -/
def State.writeReg (n v : Nat) (s : State) : Out :=
  if regValueFits s.par n v then
    match n with
    | 0 => State.writeCmd ((BitVec.ofNat 32 v).getLsbD 31) ((BitVec.ofNat 32 v).extractLsb' 0 3) s
    | 1 => if s.busy then .next s else State.commit { s with bitCount := v }
    | 2 => if s.busy then .next s else State.commit { s with nout := v }
    | _ => .next s
  else .refused .valueTooWide

/-- The host receives a value. -/
def State.answer (v : Nat) (s : State) : Out := .next { s with reply := some v }

/-- The output value of a symbol: `sign ? m + K : m` (30_encoding.md R76). -/
def outValue (lv : Level) (m : Nat) (sign : Bool) : Nat := if sign then m + lv.alphabet else m

end Sys2Proof.Machine
end

