-- ==== Sys2Proof/Machine/Decoder.lean ====
section
/-! DEFINITION. The two kinds of DEC step (40_decode_operation.md R93, R94). -/

namespace Sys2Proof.Machine

/-- The sample-start step (40_decode_operation.md R93). -/
def State.signStep (s : State) : Out :=
  if s.sampleStop then State.commit (State.finish (decide (s.samples = s.nout)) s)
  else
    match s.readBit s.cursor with
    | none => State.commit (State.raiseError .overrun s)
    | some b => State.commit { s with cursor := s.cursor + 1, signl := b, acc := 0, len := 0, phase := .code }

/-- The code-bit step, as 40_decode_operation.md R94 writes it. -/
def State.codeBitStep (s : State) : Out :=
  if s.exhausted then State.commit (State.finish false s)
  else
    match s.readBit s.cursor with
    | none => State.commit (State.raiseError .overrun s)
    | some b =>
      match Level.ofField s.stBrc with
      | none => .fault .noTable
      | some lv =>
        match matchCode lv s.nextLen.toNat (s.nextAcc b).toNat with
        | none => State.commit (State.takeCodeBit b s)
        | some m => State.writeSample (outValue lv m s.signl) (State.takeCodeBit b s)

/-- The code word that the next code-bit step completes, as an instruction: the bit at CURSOR is read, and the matcher
recognises the node it leads to (30_encoding.md R78, 41_code_tables.md R175). None where the next DEC step is another
one. -/
def State.nextCodeWord (s : State) : Option Instr :=
  if s.busy && decide (s.phase = .code) && !s.exhausted then
    match s.readBit s.cursor with
    | none => none
    | some b =>
      match Level.ofField s.stBrc with
      | none => none
      | some lv =>
        match matchCode lv s.nextLen.toNat (s.nextAcc b).toNat with
        | none => none
        | some m => codeInstr lv m s.signl
  else none

end Sys2Proof.Machine
end

