-- ==== Sys2Proof/Machine/CodeWords.lean ====
section
/-! DEFINITION. The meanings of the code-word rows (41_code_tables.md R121 to R170): the code-bit step of
40_decode_operation.md R94 at the bit that completes the code word. -/

namespace Sys2Proof.Machine

/-- The code-bit step that completes the code word of magnitude `m` of a level, behind the sign bit `sign`: where the
matcher recognises instruction `i` (41_code_tables.md R175), the bit is taken and the output value `sign ? m + K : m`
written to OUT[SAMPLES] (40_decode_operation.md R94, 30_encoding.md R76). -/
def State.completeCode (i : Instr) (lv : Level) (m : Nat) (sign : Bool) (s : State) : Out :=
  if s.nextCodeWord = some i then
    match s.readBit s.cursor with
    | none => .refused .codeWordNotRecognised
    | some b => State.writeSample (outValue lv m sign) (State.takeCodeBit b s)
  else .refused .codeWordNotRecognised

/-- CW.BRC0.M0: code `0`, output 0 or 4 (41_code_tables.md R121). -/
def execCwBrc0M0 (sign : Bool) (s : State) : Out :=
  State.completeCode (.cwBrc0M0 sign) .brc0 0 sign s

/-- CW.BRC0.M1: code `10`, output 1 or 5 (41_code_tables.md R122). -/
def execCwBrc0M1 (sign : Bool) (s : State) : Out :=
  State.completeCode (.cwBrc0M1 sign) .brc0 1 sign s

/-- CW.BRC0.M2: code `110`, output 2 or 6 (41_code_tables.md R123). -/
def execCwBrc0M2 (sign : Bool) (s : State) : Out :=
  State.completeCode (.cwBrc0M2 sign) .brc0 2 sign s

/-- CW.BRC0.M3: code `111`, output 3 or 7 (41_code_tables.md R124). -/
def execCwBrc0M3 (sign : Bool) (s : State) : Out :=
  State.completeCode (.cwBrc0M3 sign) .brc0 3 sign s

/-- CW.BRC1.M0: code `0`, output 0 or 5 (41_code_tables.md R127). -/
def execCwBrc1M0 (sign : Bool) (s : State) : Out :=
  State.completeCode (.cwBrc1M0 sign) .brc1 0 sign s

/-- CW.BRC1.M1: code `10`, output 1 or 6 (41_code_tables.md R128). -/
def execCwBrc1M1 (sign : Bool) (s : State) : Out :=
  State.completeCode (.cwBrc1M1 sign) .brc1 1 sign s

/-- CW.BRC1.M2: code `110`, output 2 or 7 (41_code_tables.md R129). -/
def execCwBrc1M2 (sign : Bool) (s : State) : Out :=
  State.completeCode (.cwBrc1M2 sign) .brc1 2 sign s

/-- CW.BRC1.M3: code `1110`, output 3 or 8 (41_code_tables.md R130). -/
def execCwBrc1M3 (sign : Bool) (s : State) : Out :=
  State.completeCode (.cwBrc1M3 sign) .brc1 3 sign s

/-- CW.BRC1.M4: code `1111`, output 4 or 9 (41_code_tables.md R131). -/
def execCwBrc1M4 (sign : Bool) (s : State) : Out :=
  State.completeCode (.cwBrc1M4 sign) .brc1 4 sign s

/-- CW.BRC2.M0: code `0`, output 0 or 7 (41_code_tables.md R134). -/
def execCwBrc2M0 (sign : Bool) (s : State) : Out :=
  State.completeCode (.cwBrc2M0 sign) .brc2 0 sign s

/-- CW.BRC2.M1: code `10`, output 1 or 8 (41_code_tables.md R135). -/
def execCwBrc2M1 (sign : Bool) (s : State) : Out :=
  State.completeCode (.cwBrc2M1 sign) .brc2 1 sign s

/-- CW.BRC2.M2: code `110`, output 2 or 9 (41_code_tables.md R136). -/
def execCwBrc2M2 (sign : Bool) (s : State) : Out :=
  State.completeCode (.cwBrc2M2 sign) .brc2 2 sign s

/-- CW.BRC2.M3: code `1110`, output 3 or 10 (41_code_tables.md R137). -/
def execCwBrc2M3 (sign : Bool) (s : State) : Out :=
  State.completeCode (.cwBrc2M3 sign) .brc2 3 sign s

/-- CW.BRC2.M4: code `11110`, output 4 or 11 (41_code_tables.md R138). -/
def execCwBrc2M4 (sign : Bool) (s : State) : Out :=
  State.completeCode (.cwBrc2M4 sign) .brc2 4 sign s

/-- CW.BRC2.M5: code `111110`, output 5 or 12 (41_code_tables.md R139). -/
def execCwBrc2M5 (sign : Bool) (s : State) : Out :=
  State.completeCode (.cwBrc2M5 sign) .brc2 5 sign s

/-- CW.BRC2.M6: code `111111`, output 6 or 13 (41_code_tables.md R140). -/
def execCwBrc2M6 (sign : Bool) (s : State) : Out :=
  State.completeCode (.cwBrc2M6 sign) .brc2 6 sign s

/-- CW.BRC3.M0: code `00`, output 0 or 10 (41_code_tables.md R143). -/
def execCwBrc3M0 (sign : Bool) (s : State) : Out :=
  State.completeCode (.cwBrc3M0 sign) .brc3 0 sign s

/-- CW.BRC3.M1: code `01`, output 1 or 11 (41_code_tables.md R144). -/
def execCwBrc3M1 (sign : Bool) (s : State) : Out :=
  State.completeCode (.cwBrc3M1 sign) .brc3 1 sign s

/-- CW.BRC3.M2: code `10`, output 2 or 12 (41_code_tables.md R145). -/
def execCwBrc3M2 (sign : Bool) (s : State) : Out :=
  State.completeCode (.cwBrc3M2 sign) .brc3 2 sign s

/-- CW.BRC3.M3: code `110`, output 3 or 13 (41_code_tables.md R146). -/
def execCwBrc3M3 (sign : Bool) (s : State) : Out :=
  State.completeCode (.cwBrc3M3 sign) .brc3 3 sign s

/-- CW.BRC3.M4: code `1110`, output 4 or 14 (41_code_tables.md R147). -/
def execCwBrc3M4 (sign : Bool) (s : State) : Out :=
  State.completeCode (.cwBrc3M4 sign) .brc3 4 sign s

/-- CW.BRC3.M5: code `11110`, output 5 or 15 (41_code_tables.md R148). -/
def execCwBrc3M5 (sign : Bool) (s : State) : Out :=
  State.completeCode (.cwBrc3M5 sign) .brc3 5 sign s

/-- CW.BRC3.M6: code `111110`, output 6 or 16 (41_code_tables.md R149). -/
def execCwBrc3M6 (sign : Bool) (s : State) : Out :=
  State.completeCode (.cwBrc3M6 sign) .brc3 6 sign s

/-- CW.BRC3.M7: code `1111110`, output 7 or 17 (41_code_tables.md R150). -/
def execCwBrc3M7 (sign : Bool) (s : State) : Out :=
  State.completeCode (.cwBrc3M7 sign) .brc3 7 sign s

/-- CW.BRC3.M8: code `11111110`, output 8 or 18 (41_code_tables.md R151). -/
def execCwBrc3M8 (sign : Bool) (s : State) : Out :=
  State.completeCode (.cwBrc3M8 sign) .brc3 8 sign s

/-- CW.BRC3.M9: code `11111111`, output 9 or 19 (41_code_tables.md R152). -/
def execCwBrc3M9 (sign : Bool) (s : State) : Out :=
  State.completeCode (.cwBrc3M9 sign) .brc3 9 sign s

/-- CW.BRC4.M0: code `00`, output 0 or 16 (41_code_tables.md R155). -/
def execCwBrc4M0 (sign : Bool) (s : State) : Out :=
  State.completeCode (.cwBrc4M0 sign) .brc4 0 sign s

/-- CW.BRC4.M1: code `010`, output 1 or 17 (41_code_tables.md R156). -/
def execCwBrc4M1 (sign : Bool) (s : State) : Out :=
  State.completeCode (.cwBrc4M1 sign) .brc4 1 sign s

/-- CW.BRC4.M2: code `011`, output 2 or 18 (41_code_tables.md R157). -/
def execCwBrc4M2 (sign : Bool) (s : State) : Out :=
  State.completeCode (.cwBrc4M2 sign) .brc4 2 sign s

/-- CW.BRC4.M3: code `100`, output 3 or 19 (41_code_tables.md R158). -/
def execCwBrc4M3 (sign : Bool) (s : State) : Out :=
  State.completeCode (.cwBrc4M3 sign) .brc4 3 sign s

/-- CW.BRC4.M4: code `101`, output 4 or 20 (41_code_tables.md R159). -/
def execCwBrc4M4 (sign : Bool) (s : State) : Out :=
  State.completeCode (.cwBrc4M4 sign) .brc4 4 sign s

/-- CW.BRC4.M5: code `1100`, output 5 or 21 (41_code_tables.md R160). -/
def execCwBrc4M5 (sign : Bool) (s : State) : Out :=
  State.completeCode (.cwBrc4M5 sign) .brc4 5 sign s

/-- CW.BRC4.M6: code `1101`, output 6 or 22 (41_code_tables.md R161). -/
def execCwBrc4M6 (sign : Bool) (s : State) : Out :=
  State.completeCode (.cwBrc4M6 sign) .brc4 6 sign s

/-- CW.BRC4.M7: code `1110`, output 7 or 23 (41_code_tables.md R162). -/
def execCwBrc4M7 (sign : Bool) (s : State) : Out :=
  State.completeCode (.cwBrc4M7 sign) .brc4 7 sign s

/-- CW.BRC4.M8: code `11110`, output 8 or 24 (41_code_tables.md R163). -/
def execCwBrc4M8 (sign : Bool) (s : State) : Out :=
  State.completeCode (.cwBrc4M8 sign) .brc4 8 sign s

/-- CW.BRC4.M9: code `111110`, output 9 or 25 (41_code_tables.md R164). -/
def execCwBrc4M9 (sign : Bool) (s : State) : Out :=
  State.completeCode (.cwBrc4M9 sign) .brc4 9 sign s

/-- CW.BRC4.M10: code `11111100`, output 10 or 26 (41_code_tables.md R165). -/
def execCwBrc4M10 (sign : Bool) (s : State) : Out :=
  State.completeCode (.cwBrc4M10 sign) .brc4 10 sign s

/-- CW.BRC4.M11: code `11111101`, output 11 or 27 (41_code_tables.md R166). -/
def execCwBrc4M11 (sign : Bool) (s : State) : Out :=
  State.completeCode (.cwBrc4M11 sign) .brc4 11 sign s

/-- CW.BRC4.M12: code `111111100`, output 12 or 28 (41_code_tables.md R167). -/
def execCwBrc4M12 (sign : Bool) (s : State) : Out :=
  State.completeCode (.cwBrc4M12 sign) .brc4 12 sign s

/-- CW.BRC4.M13: code `111111101`, output 13 or 29 (41_code_tables.md R168). -/
def execCwBrc4M13 (sign : Bool) (s : State) : Out :=
  State.completeCode (.cwBrc4M13 sign) .brc4 13 sign s

/-- CW.BRC4.M14: code `111111110`, output 14 or 30 (41_code_tables.md R169). -/
def execCwBrc4M14 (sign : Bool) (s : State) : Out :=
  State.completeCode (.cwBrc4M14 sign) .brc4 14 sign s

/-- CW.BRC4.M15: code `111111111`, output 15 or 31 (41_code_tables.md R170). -/
def execCwBrc4M15 (sign : Bool) (s : State) : Out :=
  State.completeCode (.cwBrc4M15 sign) .brc4 15 sign s

end Sys2Proof.Machine
end

