-- ==== Sys2Proof/Machine/Commands.lean ====
section
/-! DEFINITION. The meanings of the command-word rows: DECODE.BRC0 to DECODE.BRC4, the reserved levels DECODE.BRC5 to
DECODE.BRC7, and CMD.SET. -/

namespace Sys2Proof.Machine

/-- DECODE.BRC0 (40_decode_operation.md R95): START (R91) with brc = 0; while busy the word is dropped. The steps
that follow are DEC's (R92 to R94). -/
def execDecodeBrc0 (s : State) : Out := State.writeCmd true 0 s

/-- DECODE.BRC1 (40_decode_operation.md R96): START (R91) with brc = 1; while busy the word is dropped. The steps
that follow are DEC's (R92 to R94). -/
def execDecodeBrc1 (s : State) : Out := State.writeCmd true 1 s

/-- DECODE.BRC2 (40_decode_operation.md R97): START (R91) with brc = 2; while busy the word is dropped. The steps
that follow are DEC's (R92 to R94). -/
def execDecodeBrc2 (s : State) : Out := State.writeCmd true 2 s

/-- DECODE.BRC3 (40_decode_operation.md R98): START (R91) with brc = 3; while busy the word is dropped. The steps
that follow are DEC's (R92 to R94). -/
def execDecodeBrc3 (s : State) : Out := State.writeCmd true 3 s

/-- DECODE.BRC4 (40_decode_operation.md R99): START (R91) with brc = 4; while busy the word is dropped. The steps
that follow are DEC's (R92 to R94). -/
def execDecodeBrc4 (s : State) : Out := State.writeCmd true 4 s

/-- DECODE.BRC5 (60_exceptions.md R212): START of a reserved level, which ends at once with BRC_INVALID. -/
def execDecodeBrc5 (s : State) : Out := State.writeCmd true 5 s

/-- DECODE.BRC6 (60_exceptions.md R212): START of a reserved level, which ends at once with BRC_INVALID. -/
def execDecodeBrc6 (s : State) : Out := State.writeCmd true 6 s

/-- DECODE.BRC7 (60_exceptions.md R212): START of a reserved level, which ends at once with BRC_INVALID. -/
def execDecodeBrc7 (s : State) : Out := State.writeCmd true 7 s

/-- CMD.SET (42_host_interface.md R192): stores the BRC field and starts nothing. -/
def execCmdSet (brc : BrcField) (s : State) : Out := State.writeCmd false brc s

end Sys2Proof.Machine
end

