-- ==== Sys2Proof/Machine/HostAccess.lean ====
section
/-! DEFINITION. The meanings of the host transactions (42_host_interface.md R191 to R200). A host index outside a memory
is refused (R190), busy or not. -/

namespace Sys2Proof.Machine

/-- HWR n, v (42_host_interface.md R191 to R195). -/
def execHwr (n v : Nat) (s : State) : Out := State.writeReg n v s

/-- HRD n (R196): the read changes nothing but what the host has received. -/
def execHrd (n : Nat) (s : State) : Out := State.answer (s.readReg n) s

/-- BWR i, v (R197): dropped while busy. -/
def execBwr (i v : Nat) (s : State) : Out :=
  if i < s.par.bitbufLen then
    if Fits s.par.elemW v then
      if s.busy then .next s else State.commit { s with bits := Mem.write s.bits i v }
    else .refused .valueTooWide
  else .refused .bitsIndexOutOfRange

/-- BRD i (R198): the element's value, busy or not. -/
def execBrd (i : Nat) (s : State) : Out :=
  if i < s.par.bitbufLen then State.answer (s.readBits i) s else .refused .bitsIndexOutOfRange

/-- OWR j, v (R199): dropped while busy. -/
def execOwr (j v : Nat) (s : State) : Out :=
  if j < s.par.outCap then
    if Fits s.par.outW v then
      if s.busy then .next s else State.commit { s with out := Mem.write s.out j v }
    else .refused .valueTooWide
  else .refused .outIndexOutOfRange

/-- ORD j (R200): the element's value, busy or not. -/
def execOrd (j : Nat) (s : State) : Out :=
  if j < s.par.outCap then State.answer (s.readOut j) s else .refused .outIndexOutOfRange

end Sys2Proof.Machine
end

