-- ==== Sys2Proof/Machine/Dispatch.lean ====
section
/-! DEFINITION. What each instruction does: one arm per constructor, one direct call of its meaning. -/

namespace Sys2Proof.Machine

def exec (i : Instr) (s : State) : Host.Outcome State Fault Refusal :=
  match i with
  | .decodeBrc0 => Sys2Proof.Machine.execDecodeBrc0 s
  | .decodeBrc1 => Sys2Proof.Machine.execDecodeBrc1 s
  | .decodeBrc2 => Sys2Proof.Machine.execDecodeBrc2 s
  | .decodeBrc3 => Sys2Proof.Machine.execDecodeBrc3 s
  | .decodeBrc4 => Sys2Proof.Machine.execDecodeBrc4 s
  | .decodeBrc5 => Sys2Proof.Machine.execDecodeBrc5 s
  | .decodeBrc6 => Sys2Proof.Machine.execDecodeBrc6 s
  | .decodeBrc7 => Sys2Proof.Machine.execDecodeBrc7 s
  | .cmdSet brc => Sys2Proof.Machine.execCmdSet brc s
  | .hwr n v => Sys2Proof.Machine.execHwr n v s
  | .hrd n => Sys2Proof.Machine.execHrd n s
  | .bwr k v => Sys2Proof.Machine.execBwr k v s
  | .brd k => Sys2Proof.Machine.execBrd k s
  | .owr j v => Sys2Proof.Machine.execOwr j v s
  | .ord j => Sys2Proof.Machine.execOrd j s
  | .cwBrc0M0 sign => Sys2Proof.Machine.execCwBrc0M0 sign s
  | .cwBrc0M1 sign => Sys2Proof.Machine.execCwBrc0M1 sign s
  | .cwBrc0M2 sign => Sys2Proof.Machine.execCwBrc0M2 sign s
  | .cwBrc0M3 sign => Sys2Proof.Machine.execCwBrc0M3 sign s
  | .cwBrc1M0 sign => Sys2Proof.Machine.execCwBrc1M0 sign s
  | .cwBrc1M1 sign => Sys2Proof.Machine.execCwBrc1M1 sign s
  | .cwBrc1M2 sign => Sys2Proof.Machine.execCwBrc1M2 sign s
  | .cwBrc1M3 sign => Sys2Proof.Machine.execCwBrc1M3 sign s
  | .cwBrc1M4 sign => Sys2Proof.Machine.execCwBrc1M4 sign s
  | .cwBrc2M0 sign => Sys2Proof.Machine.execCwBrc2M0 sign s
  | .cwBrc2M1 sign => Sys2Proof.Machine.execCwBrc2M1 sign s
  | .cwBrc2M2 sign => Sys2Proof.Machine.execCwBrc2M2 sign s
  | .cwBrc2M3 sign => Sys2Proof.Machine.execCwBrc2M3 sign s
  | .cwBrc2M4 sign => Sys2Proof.Machine.execCwBrc2M4 sign s
  | .cwBrc2M5 sign => Sys2Proof.Machine.execCwBrc2M5 sign s
  | .cwBrc2M6 sign => Sys2Proof.Machine.execCwBrc2M6 sign s
  | .cwBrc3M0 sign => Sys2Proof.Machine.execCwBrc3M0 sign s
  | .cwBrc3M1 sign => Sys2Proof.Machine.execCwBrc3M1 sign s
  | .cwBrc3M2 sign => Sys2Proof.Machine.execCwBrc3M2 sign s
  | .cwBrc3M3 sign => Sys2Proof.Machine.execCwBrc3M3 sign s
  | .cwBrc3M4 sign => Sys2Proof.Machine.execCwBrc3M4 sign s
  | .cwBrc3M5 sign => Sys2Proof.Machine.execCwBrc3M5 sign s
  | .cwBrc3M6 sign => Sys2Proof.Machine.execCwBrc3M6 sign s
  | .cwBrc3M7 sign => Sys2Proof.Machine.execCwBrc3M7 sign s
  | .cwBrc3M8 sign => Sys2Proof.Machine.execCwBrc3M8 sign s
  | .cwBrc3M9 sign => Sys2Proof.Machine.execCwBrc3M9 sign s
  | .cwBrc4M0 sign => Sys2Proof.Machine.execCwBrc4M0 sign s
  | .cwBrc4M1 sign => Sys2Proof.Machine.execCwBrc4M1 sign s
  | .cwBrc4M2 sign => Sys2Proof.Machine.execCwBrc4M2 sign s
  | .cwBrc4M3 sign => Sys2Proof.Machine.execCwBrc4M3 sign s
  | .cwBrc4M4 sign => Sys2Proof.Machine.execCwBrc4M4 sign s
  | .cwBrc4M5 sign => Sys2Proof.Machine.execCwBrc4M5 sign s
  | .cwBrc4M6 sign => Sys2Proof.Machine.execCwBrc4M6 sign s
  | .cwBrc4M7 sign => Sys2Proof.Machine.execCwBrc4M7 sign s
  | .cwBrc4M8 sign => Sys2Proof.Machine.execCwBrc4M8 sign s
  | .cwBrc4M9 sign => Sys2Proof.Machine.execCwBrc4M9 sign s
  | .cwBrc4M10 sign => Sys2Proof.Machine.execCwBrc4M10 sign s
  | .cwBrc4M11 sign => Sys2Proof.Machine.execCwBrc4M11 sign s
  | .cwBrc4M12 sign => Sys2Proof.Machine.execCwBrc4M12 sign s
  | .cwBrc4M13 sign => Sys2Proof.Machine.execCwBrc4M13 sign s
  | .cwBrc4M14 sign => Sys2Proof.Machine.execCwBrc4M14 sign s
  | .cwBrc4M15 sign => Sys2Proof.Machine.execCwBrc4M15 sign s

end Sys2Proof.Machine
end

