-- ==== Sys2Proof/Machine/Agents.lean ====
section
/-! DEFINITION. Who moves: the DEC step, the events of the run's total order, and where a table word is placed so that
the next step runs it. -/

namespace Sys2Proof.Machine

/-- One step of DEC (40_decode_operation.md R92): none while STATUS.BUSY = 0, in which case nothing happens. In PHASE =
CODE the bit at CURSOR may complete a code word, which is then the instruction that runs. -/
def State.decStep (s : State) : Out :=
  if s.busy then
    match s.phase with
    | .idle => .fault .busyWhileIdle
    | .sign => s.signStep
    | .code =>
      match s.nextCodeWord with
      | some i => exec i s
      | none => s.codeBitStep
  else .next s

/-- One transition of the total order (20_memory.md R64). -/
def State.perform (e : Event) (s : State) : Out :=
  match e with
  | .txn t => exec (decodeTxn t) s
  | .dec => s.decStep
  | .reset => State.commit s.applyReset

/-- The transition that is due: the first pending one, or a DEC step where none is pending (DEC is then the only agent
that can move: 70_reset_and_hazards.md R253). -/
def State.turn (s : State) : Out :=
  match s.inbox with
  | [] => s.decStep
  | e :: rest => State.perform e { s with inbox := rest }

/-- Puts a host transaction first in the pending transitions. -/
def State.placeTxn (t : Txn) (s : State) : State := { s with inbox := .txn t :: s.inbox }

/-- Writes a bit sequence into BITS from index `i` on, one element per bit. -/
def writeBitString (m : Mem) (i : Nat) : List Bool → Mem
  | [] => m
  | b :: rest => writeBitString (Mem.write m i b.toNat) (i + 1) rest

/-- Puts a symbol at the head of BITS and DEC at its last code bit, in a command of that level for this one sample: the
state in which the next DEC step completes the code word (notes/assumptions/7.md). -/
def State.placeSymbol (lv : Level) (m : Nat) (sign : Bool) (s : State) : State :=
  let code := lv.table.getD m []
  { s with
    bits := writeBitString s.bits 0 (sign :: code)
    bitCount := code.length + 1
    nout := 1
    busy := true
    done := false
    complete := false
    err := .noError
    stBrc := lv.field
    cursor := code.length
    samples := 0
    phase := .code
    signl := sign
    acc := BitVec.ofNat 9 (val code / 2)
    len := BitVec.ofNat 4 (code.length - 1)
    inbox := .dec :: s.inbox }

/-- Places the instruction of a table word so that the next step runs it; a word that decodes to nothing changes
nothing. -/
def State.placeWord (s : State) (nbits w : Nat) : State :=
  match decodeTableWord nbits w with
  | none => s
  | some i =>
    match i.codeWord with
    | some (lv, m, sign) => s.placeSymbol lv m sign
    | none => s.placeTxn (.hwr 0 w)

end Sys2Proof.Machine
end

