-- ==== Sys2Proof/Machine/Step.lean ====
section
/-! DEFINITION. One step of the machine, and the placing of a table word for it. -/

namespace Sys2Proof.Machine

/-- One transition of the run (20_memory.md R64). -/
def step (s : State) : Host.Outcome State Fault Refusal := s.turn

/-- `s` with the instruction of a word of the opcode table placed so that the next step runs it. -/
def State.withFetchWord (s : State) (nbits w : Nat) : State := s.placeWord nbits w

end Sys2Proof.Machine
end

