-- ==== Sys2Proof/Machine/Whole.lean ====
section
/-! DEFINITION. The whole-command function of 40_decode_operation.md R103, a restatement of the step machine in which
`bit i` is the bit read at index `i`. -/

namespace Sys2Proof.Machine

/-- How the inner loop of `decode_fn` ends. `noLeaf` is the loop's fuel running out, which the tables' completeness rules
out (41_code_tables.md R173). -/
inductive WalkEnd where
  | leaf (m cursor : Nat)
  | exhausted (cursor : Nat)
  | noLeaf
  deriving DecidableEq, Repr

/-- What `decode_fn` returns, and the output values it writes to OUT[0], OUT[1], ... -/
structure WholeResult where
  cursor : Nat
  samples : Nat
  complete : Bool
  out : List Nat
  deriving DecidableEq, Repr

/-- The inner loop of `decode_fn` (40_decode_operation.md R103), for at most `fuel` code bits. -/
def wholeWalk (lv : Level) (bc : BoundCheck) (bitCount : Nat) (bit : Nat → Bool) : Nat → Nat → Nat → Nat → WalkEnd
  | 0, _, _, _ => .noLeaf
  | fuel + 1, cursor, acc, len =>
    if bc = .perBit ∧ cursor ≥ bitCount then .exhausted cursor
    else
      match matchCode lv (len + 1) (2 * acc + (bit cursor).toNat) with
      | some m => .leaf m (cursor + 1)
      | none => wholeWalk lv bc bitCount bit fuel (cursor + 1) (2 * acc + (bit cursor).toNat) (len + 1)

/-- The outer loop of `decode_fn` (40_decode_operation.md R103), for at most `fuel` rounds. -/
def wholeSamples (lv : Level) (bc : BoundCheck) (bitCount nout : Nat) (bit : Nat → Bool) :
    Nat → Nat → Nat → List Nat → Option WholeResult
  | 0, _, _, _ => none
  | fuel + 1, cursor, samples, out =>
    if samples = nout ∨ cursor ≥ bitCount then
      some { cursor := cursor, samples := samples, complete := decide (samples = nout), out := out }
    else
      match wholeWalk lv bc bitCount bit lv.lmax (cursor + 1) 0 0 with
      | .leaf m cursor' =>
        wholeSamples lv bc bitCount nout bit fuel cursor' (samples + 1) (out ++ [outValue lv m (bit cursor)])
      | .exhausted cursor' => some { cursor := cursor', samples := samples, complete := false, out := out }
      | .noLeaf => none

/-- `decode_fn(brc, BIT_COUNT, NOUT)` (40_decode_operation.md R103). -/
def decodeFn (lv : Level) (bc : BoundCheck) (bitCount nout : Nat) (bit : Nat → Bool) : Option WholeResult :=
  wholeSamples lv bc bitCount nout bit (nout + 1) 0 0 []

/-! ## The matcher by canonical parameters (41_code_tables.md R174) -/

/-- For each length with code words: the length L, the value F_L of the first code word, their number N_L and the
magnitude M_L of the first (41_code_tables.md R174). -/
def canonicalRows : Level → List (Nat × Nat × Nat × Nat)
  | .brc0 => [(1, 0b0, 1, 0), (2, 0b10, 1, 1), (3, 0b110, 2, 2)]
  | .brc1 => [(1, 0b0, 1, 0), (2, 0b10, 1, 1), (3, 0b110, 1, 2), (4, 0b1110, 2, 3)]
  | .brc2 => [(1, 0b0, 1, 0), (2, 0b10, 1, 1), (3, 0b110, 1, 2), (4, 0b1110, 1, 3), (5, 0b11110, 1, 4),
      (6, 0b111110, 2, 5)]
  | .brc3 => [(2, 0b00, 3, 0), (3, 0b110, 1, 3), (4, 0b1110, 1, 4), (5, 0b11110, 1, 5), (6, 0b111110, 1, 6),
      (7, 0b1111110, 1, 7), (8, 0b11111110, 2, 8)]
  | .brc4 => [(2, 0b00, 1, 0), (3, 0b010, 4, 1), (4, 0b1100, 3, 5), (5, 0b11110, 1, 8), (6, 0b111110, 1, 9),
      (8, 0b11111100, 2, 10), (9, 0b111111100, 4, 12)]

/-- The leaf test by canonical parameters: F_L ≤ ACC < F_L + N_L, with magnitude M_L + ACC − F_L. -/
def canonicalMatch (lv : Level) (len acc : Nat) : Option Nat :=
  match (canonicalRows lv).find? fun r => r.1 == len with
  | none => none
  | some (_, f, n, m) => if f ≤ acc ∧ acc < f + n then some (m + acc - f) else none

end Sys2Proof.Machine
end

