-- ==== Sys2Proof/Safety.lean ====
section
/-! DEFINITION. What counts as a sound state and a fault-free run, in the terms that claims use: the invariant of the
machine, reachability, and the standing of DEC at the last bit of a code word. -/

namespace Sys2Proof.Machine

/-- The invariant: 10_state.md R41, the widths of R22 to R34, the canonical form of the memories, and the bounds on
CURSOR that 40_decode_operation.md R104, R106 and R107 derive. -/
structure State.Inv (s : State) : Prop where
  /-- The parameters are in range (00_scope.md R8). -/
  parValid : s.par.Valid
  /-- BITS is in canonical form. -/
  bitsWf : Mem.wf s.bits
  /-- OUT is in canonical form. -/
  outWf : Mem.wf s.out
  /-- Every written BITS element exists and has ELEM_W bits (10_state.md R33). -/
  bitsIn : ∀ x ∈ s.bits, x.1 < s.par.bitbufLen ∧ Fits s.par.elemW x.2
  /-- Every written OUT element exists and has OUT_W bits (10_state.md R34). -/
  outIn : ∀ x ∈ s.out, x.1 < s.par.outCap ∧ Fits s.par.outW x.2
  /-- BIT_COUNT has W_CNT bits (R22). -/
  bitCountFits : Fits s.par.wCnt s.bitCount
  /-- NOUT has W_CNT bits (R23). -/
  noutFits : Fits s.par.wCnt s.nout
  /-- CURSOR never exceeds BITBUF_LEN (R25). -/
  cursorBound : s.cursor ≤ s.par.bitbufLen
  /-- SAMPLES never exceeds OUT_CAP (R26, 60_exceptions.md R213). -/
  samplesBound : s.samples ≤ s.par.outCap
  /-- R41.1. -/
  busyPhase : s.busy = true ↔ s.phase ≠ .idle
  /-- R41.2. -/
  notBusyAndDone : ¬ (s.busy = true ∧ s.done = true)
  /-- R41.3. -/
  completeDone : s.complete = true → s.done = true ∧ s.err = .noError
  /-- R41.4. -/
  errDone : s.err ≠ .noError → s.done = true ∧ s.complete = false ∧ s.busy = false
  /-- R41.6. -/
  runningLevel : s.busy = true → s.stBrc.toNat ≤ 4
  /-- The counts of a running command are within the memories (40_decode_operation.md R91). -/
  runningCounts : s.busy = true → s.bitCount ≤ s.par.bitbufLen ∧ s.nout ≤ s.par.outCap
  /-- R41.7. -/
  runningSamples : s.busy = true → s.samples ≤ s.nout
  /-- A sample begins only with SAMPLES < NOUT (40_decode_operation.md R104). -/
  codeSamples : s.phase = .code → s.samples < s.nout
  /-- A code is read from at most LEN elements at or beyond BIT_COUNT (40_decode_operation.md R106). -/
  codeCursor : s.phase = .code → s.cursor ≤ s.bitCount + s.len.toNat ∧ s.len.toNat + 1 ≤ s.cursor
  /-- Between samples at most LMAX elements at or beyond BIT_COUNT have been read (R106). -/
  signCursor : s.phase = .sign → ∀ lv, Level.ofField s.stBrc = some lv → s.cursor ≤ s.bitCount + lv.lmax
  /-- In PER_BIT mode no index at or beyond BIT_COUNT is read (R107). -/
  perBitCursor : s.busy = true → s.par.boundCheck = .perBit → s.cursor ≤ s.bitCount
  /-- The walk stands at an internal node of the running level's tree (R41.8, 41_code_tables.md R176). -/
  codeNode : s.phase = .code → ∀ lv, Level.ofField s.stBrc = some lv →
    isInternal lv s.len.toNat s.acc.toNat = true

/-- A state that some run reaches: from the reset state of an instance with valid parameters, under any order of host
transactions, DEC steps and resets. -/
def State.Reachable (s : State) : Prop :=
  ∃ (p : Params) (events : List Event) (k : Nat),
    p.Valid ∧ Host.Core.run Sys2Proof.core k { State.resetOf p with inbox := events } = .next s

/-- A run up to `s` is fault-free: no command of it ended with an error (60_exceptions.md R225). -/
def State.FaultFree (s : State) : Prop := ∀ r ∈ s.ghost, r.isError = false

/-- DEC stands at the last bit of a code word of level `lv`: the bits `pre` of the code are read, `last` is the bit at
CURSOR, and the sign read was `sign`. -/
structure State.AtLastBit (s : State) (lv : Level) (sign : Bool) (pre : List Bool) (last : Bool) : Prop where
  running : s.busy = true
  inCode : s.phase = .code
  level : s.stBrc = lv.field
  signRead : s.signl = sign
  lenRead : s.len = BitVec.ofNat 4 pre.length
  accRead : s.acc = BitVec.ofNat 9 (val pre)
  inBound : s.par.boundCheck = .perBit → s.cursor < s.bitCount
  room : s.samples < s.par.outCap
  lastBit : s.readBit s.cursor = some last

/-- `s` after the code-bit step that completes `code` and writes `v` (40_decode_operation.md R94). -/
def State.afterCode (s : State) (code : List Bool) (v : Nat) : State :=
  { s with
    cursor := s.cursor + 1, acc := BitVec.ofNat 9 (val code), len := BitVec.ofNat 4 code.length,
    out := Mem.write s.out s.samples v, samples := s.samples + 1, phase := .sign, drawKey := s.drawKey + 1 }

/-- The bit that a command which starts in `s` reads at index `i`: a written element as it stands, and an unwritten one as
its draw at the step that reads it, which is step `i` of the command since every step before it reads one element and
writes (40_decode_operation.md R103: each index is read once, so each draw is taken once; notes/assumptions/2.md). -/
def State.commandBit (s : State) (i : Nat) : Bool :=
  decide (State.readBits { s with drawKey := s.drawKey + i } i ≠ 0)

/-- Two states whose draws for the unwritten BITS elements agree, now and after any number of writes. Where every BITS
element is written this asks nothing, and two states with one `drawKey` meet it too (20_memory.md R52). -/
def State.SameDraws (s t : State) : Prop :=
  ∀ i < s.par.bitbufLen, Mem.read? s.bits i = none → ∀ k,
    Config.freeBits s.par.elemW (s.drawKey + k) i = Config.freeBits s.par.elemW (t.drawKey + k) i

/-- Two states in which a command decodes alike: the same parameters, registers and BITS, the same OUT elements at the
indices that the command has written (below SAMPLES), the same SIGNL, ACC and LEN where a code is being read, and the same
draws for the unwritten BITS elements from here on. Every other OUT element, the ghost list, the latest reply, CMD, the
pending transitions, the counter that keys the free values and, between samples, SIGNL, ACC and LEN may differ
(40_decode_operation.md R113, 70_reset_and_hazards.md R255). -/
structure State.SameCommand (s t : State) : Prop where
  par : s.par = t.par
  counts : s.bitCount = t.bitCount ∧ s.nout = t.nout
  flags : s.busy = t.busy ∧ s.done = t.done ∧ s.complete = t.complete ∧ s.err = t.err ∧ s.stBrc = t.stBrc
  progress : s.cursor = t.cursor ∧ s.samples = t.samples ∧ s.phase = t.phase
  walk : s.phase = .code → s.signl = t.signl ∧ s.acc = t.acc ∧ s.len = t.len
  bits : s.bits = t.bits
  written : ∀ j < s.samples, Mem.read? s.out j = Mem.read? t.out j
  draws : State.SameDraws s t

end Sys2Proof.Machine
end

