-- ==== Sys2Proof/Certificates/Slice0/Obligations.lean ====
section
/-! DEFINITION. The statements for the provers, each from the rules that its docstring names. -/

open Sys2Proof
open Sys2Proof.Machine

/-- For every instance and every well-formed instruction of every row, with every operand, decode (encode i) is i.
(Rests on 30_encoding.md R70, 30_encoding.md R71, 30_encoding.md R74, 30_encoding.md R78, 30_encoding.md R84.) -/
def Obligations.DecodeOfEncodeIsTheInstruction : Prop :=
  ∀ (p : Params) (i : Instr), i.WF p = true → decode (encode i) = .ok i

/-- For every level, code word, sign and following bits, decodeSymbol gives the row of that code word with that sign,
and the following bits: the first match is the only one and no later bit changes it. (Rests on 30_encoding.md R74,
30_encoding.md R78, 41_code_tables.md R172.) -/
def Obligations.SymbolDecodingStopsAtItsCodeWord : Prop :=
  ∀ (lv : Level) (m : Nat) (code : List Bool) (sign : Bool) (rest : List Bool),
    lv.table[m]? = some code →
      ∃ i, codeInstr lv m sign = some i ∧ decodeSymbol lv.field (sign :: (code ++ rest)) = .ok (i, rest)

/-- For every level and every bit string of length LMAX there is a code word that is a prefix of it, and every code
word that is a prefix of it has the same magnitude. (Rests on 30_encoding.md R79, 41_code_tables.md R173.) -/
def Obligations.EveryBitStringBeginsWithOneCodeWord : Prop :=
  ∀ (lv : Level) (bits : List Bool), bits.length = lv.lmax →
    ∃ (m : Nat) (code : List Bool), lv.table[m]? = some code ∧ code <+: bits ∧
      ∀ (m' : Nat) (code' : List Bool), lv.table[m']? = some code' → code' <+: bits → m' = m

/-- For every level, length, value and magnitude, the matcher gives m if and only if the table has the code word of
magnitude m with that length and value. The result is therefore unique, and none where there is no such code word.
(States R175.) -/
def Obligations.MatcherIsTheTableLookup : Prop :=
  ∀ (lv : Level) (len acc m : Nat),
    matchCode lv len acc = some m ↔ ∃ code, lv.table[m]? = some code ∧ code.length = len ∧ val code = acc

/-- For every level, internal node and next bit, the test F_L <= ACC < F_L + N_L with magnitude M_L + ACC - F_L gives
what the table lookup gives. (Rests on 41_code_tables.md R174, 41_code_tables.md R176.) -/
def Obligations.CanonicalLeafTestAgreesWithTheMatcher : Prop :=
  ∀ (lv : Level) (len acc : Nat) (b : Bool), isInternal lv len acc = true →
    canonicalMatch lv (len + 1) (2 * acc + b.toNat) = matchCode lv (len + 1) (2 * acc + b.toNat)

/-- The command word 0x80000003 is DECODE.BRC3, 0x80000006 is DECODE.BRC6, 0x7FFFFFFC is CMD.SET of 4, the bits 1
111111101 under BRC4 are CW.BRC4.M13 with sign 1, the bits 0 0 under BRC0 are CW.BRC0.M0 with sign 0, and under BRC 5,
6 and 7 no bit string decodes, whatever its bits. (Rests on 30_encoding.md R71, 30_encoding.md R72, 30_encoding.md
R75, 41_code_tables.md R121, 41_code_tables.md R168.) -/
def Obligations.WordsOfTheSpecDecode : Prop :=
  decodeTableWord 32 0x80000003 = some .decodeBrc3 ∧
  decodeTableWord 32 0x80000006 = some .decodeBrc6 ∧
  decodeCmd 0x7FFFFFFC = .cmdSet 4 ∧
  decodeSymbol 4 [I, I, I, I, I, I, I, I, O, I] = .ok (.cwBrc4M13 true, []) ∧
  decodeSymbol 0 [O, O] = .ok (.cwBrc0M0 false, []) ∧
  ∀ b ∈ [(5 : BrcField), 6, 7], ∀ bits, decodeSymbol b bits = .error .reservedLevel

/-- For every state and two command words that agree in bit 31 and in bits 2 to 0, the two select the same operation
and writing either gives the same outcome, which is a next state; and in every state each bit of CMD from 3 to 31
reads 0. (States R73.) -/
def Obligations.ReservedCommandBitsAreIgnored : Prop :=
  (∀ (s : State) (w w' : BitVec 32),
    w.getLsbD 31 = w'.getLsbD 31 → w.extractLsb' 0 3 = w'.extractLsb' 0 3 →
      decodeCmd w = decodeCmd w' ∧ exec (.hwr 0 w.toNat) s = exec (.hwr 0 w'.toNat) s ∧
        ∃ t, exec (.hwr 0 w.toNat) s = .next t) ∧
  (∀ (s : State) (k : Nat), 3 ≤ k → s.readReg 0 / 2 ^ k % 2 = 0)

/-- In every state with BUSY = 0, BIT_COUNT <= BITBUF_LEN and NOUT <= OUT_CAP, each of DECODE.BRC0 to DECODE.BRC4
answers the next state in which CMD.BRC and STATUS.BRC are its level, DONE, COMPLETE, ERR, CURSOR and SAMPLES are 0,
BUSY is 1 and PHASE is SIGN; everything else is unchanged (but for the counter that keys the free values). (Rests on
40_decode_operation.md R91, 40_decode_operation.md R95, 40_decode_operation.md R96, 40_decode_operation.md R97,
40_decode_operation.md R98, 40_decode_operation.md R99.) -/
def Obligations.DecodeCommandsStart : Prop :=
  ∀ s : State, s.busy = false → s.bitCount ≤ s.par.bitbufLen → s.nout ≤ s.par.outCap →
    ∀ x ∈ [(Instr.decodeBrc0, (0 : BrcField)), (.decodeBrc1, 1), (.decodeBrc2, 2), (.decodeBrc3, 3), (.decodeBrc4, 4)],
      exec x.1 s = .next
        { s with
          cmdBrc := x.2, stBrc := x.2, done := false, complete := false, err := .noError, cursor := 0, samples := 0,
          busy := true, phase := .sign, drawKey := s.drawKey + 1 }

/-- In every state with BUSY = 0, each of DECODE.BRC5, DECODE.BRC6 and DECODE.BRC7 answers the next state in which
STATUS.BRC holds the rejected value, CURSOR = SAMPLES = 0, ERR = BRC_INVALID, COMPLETE = 0, DONE = 1, BUSY = 0 and
PHASE = IDLE, whatever the counts; no element changes, and DEC takes no step from there. The ghost list gains the
command, and CMD.BRC is the rejected value. (States R212.) -/
def Obligations.ReservedLevelsEndAtOnce : Prop :=
  ∀ s : State, s.busy = false →
    ∀ x ∈ [(Instr.decodeBrc5, (5 : BrcField)), (.decodeBrc6, 6), (.decodeBrc7, 7)],
      ∃ t, t = { s with
          cmdBrc := x.2, stBrc := x.2, done := true, complete := false, err := .brcInvalid, cursor := 0, samples := 0,
          busy := false, phase := .idle,
          ghost := s.ghost ++ [⟨x.2, s.bitCount, s.nout, .ended 0 0 false .brcInvalid⟩], drawKey := s.drawKey + 1 } ∧
        exec x.1 s = .next t ∧ t.decStep = .next t

/-- In every state with BUSY = 0 and BIT_COUNT > BITBUF_LEN or NOUT > OUT_CAP, each of DECODE.BRC0 to DECODE.BRC4
answers the next state with ERR = RANGE, COMPLETE = 0, DONE = 1, BUSY = 0, PHASE = IDLE and CURSOR = SAMPLES = 0; no
element changes. (States R213.) -/
def Obligations.CountsBeyondTheMemoriesRaiseRange : Prop :=
  ∀ s : State, s.busy = false → s.par.bitbufLen < s.bitCount ∨ s.par.outCap < s.nout →
    ∀ x ∈ [(Instr.decodeBrc0, (0 : BrcField)), (.decodeBrc1, 1), (.decodeBrc2, 2), (.decodeBrc3, 3), (.decodeBrc4, 4)],
      exec x.1 s = .next
        { s with
          cmdBrc := x.2, stBrc := x.2, done := true, complete := false, err := .range, cursor := 0, samples := 0,
          busy := false, phase := .idle,
          ghost := s.ghost ++ [⟨x.2, s.bitCount, s.nout, .ended 0 0 false .range⟩], drawKey := s.drawKey + 1 }

/-- In every state with BUSY = 0 and for every command word, the write of CMD runs the START of the level in bits 2 to
0 where bit 31 is 1, and where it is 0 it stores those bits in CMD.BRC and changes nothing else (but for the counter
that keys the free values), as CMD.SET does; values 5 to 7 are stored without error. (States R192.) -/
def Obligations.CommandWordWriteSelectsItsOperation : Prop :=
  ∀ (s : State) (w : BitVec 32), s.busy = false →
    (w.getLsbD 31 = true → ∀ x ∈ [(Instr.decodeBrc0, (0 : BrcField)), (.decodeBrc1, 1), (.decodeBrc2, 2),
        (.decodeBrc3, 3), (.decodeBrc4, 4), (.decodeBrc5, 5), (.decodeBrc6, 6), (.decodeBrc7, 7)],
      w.extractLsb' 0 3 = x.2 → exec (.hwr 0 w.toNat) s = exec x.1 s ∧ decodeTxn (.hwr 0 w.toNat) = x.1) ∧
    (w.getLsbD 31 = false →
      exec (.hwr 0 w.toNat) s = .next { s with cmdBrc := w.extractLsb' 0 3, drawKey := s.drawKey + 1 } ∧
      exec (.cmdSet (w.extractLsb' 0 3)) s = .next { s with cmdBrc := w.extractLsb' 0 3, drawKey := s.drawKey + 1 } ∧
      decodeTxn (.hwr 0 w.toNat) = .cmdSet (w.extractLsb' 0 3))

/-- Where DECODE.BRC0 to DECODE.BRC7 or CMD.SET answers a next state, BIT_COUNT, NOUT, SIGNL, ACC, LEN, every BITS and
OUT element, the parameters, the pending transitions and the latest reply are unchanged, and the ghost list only
grows. (Rests on 40_decode_operation.md R91, 40_decode_operation.md R102, 42_host_interface.md R192.) -/
def Obligations.CommandFrame : Prop :=
  ∀ (s t : State) (i : Instr),
    (i ∈ [Instr.decodeBrc0, .decodeBrc1, .decodeBrc2, .decodeBrc3, .decodeBrc4, .decodeBrc5, .decodeBrc6,
        .decodeBrc7] ∨ ∃ b, i = .cmdSet b) →
    exec i s = .next t →
      t.bitCount = s.bitCount ∧ t.nout = s.nout ∧ t.signl = s.signl ∧ t.acc = s.acc ∧ t.len = s.len ∧
      (∀ a, Mem.read? t.bits a = Mem.read? s.bits a) ∧ (∀ a, Mem.read? t.out a = Mem.read? s.out a) ∧
      t.par = s.par ∧ t.inbox = s.inbox ∧ t.reply = s.reply ∧ s.ghost <+: t.ghost

/-- In every state with BUSY = 0 and for every value of W_CNT bits, HWR 1 sets BIT_COUNT and HWR 2 sets NOUT;
everything else is unchanged (but for the counter that keys the free values). (Rests on 42_host_interface.md R193,
42_host_interface.md R194.) -/
def Obligations.CountWritesStoreTheirValue : Prop :=
  ∀ (s : State) (v : Nat), s.busy = false → Fits s.par.wCnt v →
    exec (.hwr 1 v) s = .next { s with bitCount := v, drawKey := s.drawKey + 1 } ∧
    exec (.hwr 2 v) s = .next { s with nout := v, drawKey := s.drawKey + 1 }

/-- In every state, for every register number of 3 or more and every value, HWR answers the next state that is the
state itself; and a step that clears DONE, or takes ERR back to no error, is that of a pending reset or of a pending
transaction that decodes to one of DECODE.BRC0 to DECODE.BRC7. (States R195.) -/
def Obligations.ReadOnlyRegisterWritesHaveNoEffect : Prop :=
  (∀ (s : State) (n v : Nat), 3 ≤ n → exec (.hwr n v) s = .next s) ∧
  (∀ s t : State, step s = .next t →
    (s.done = true ∧ t.done = false) ∨ (s.err ≠ .noError ∧ t.err = .noError) →
      ∃ rest, s.inbox = .reset :: rest ∨
        ∃ x, s.inbox = .txn x :: rest ∧ decodeTxn x ∈ [Instr.decodeBrc0, .decodeBrc1, .decodeBrc2, .decodeBrc3,
          .decodeBrc4, .decodeBrc5, .decodeBrc6, .decodeBrc7])

/-- In every state with BUSY = 1, the eight DECODE commands, CMD.SET, a 32-bit write of CMD, a well-formed HWR, BWR or
OWR each answer the next state that is the state itself. (Rests on 70_reset_and_hazards.md R245, 42_host_interface.md
R191, 42_host_interface.md R197, 42_host_interface.md R199.) -/
def Obligations.BusyDropsEveryWrite : Prop :=
  ∀ s : State, s.busy = true →
    (∀ i ∈ [Instr.decodeBrc0, .decodeBrc1, .decodeBrc2, .decodeBrc3, .decodeBrc4, .decodeBrc5, .decodeBrc6,
      .decodeBrc7], exec i s = .next s) ∧
    (∀ b, exec (.cmdSet b) s = .next s) ∧
    (∀ v, Fits 32 v → exec (.hwr 0 v) s = .next s) ∧
    (∀ n v, Instr.WF s.par (.hwr n v) = true → exec (.hwr n v) s = .next s) ∧
    (∀ i v, Instr.WF s.par (.bwr i v) = true → exec (.bwr i v) s = .next s) ∧
    (∀ j v, Instr.WF s.par (.owr j v) = true → exec (.owr j v) s = .next s)

/-- In every state HRD changes nothing but the reply, which is: CMD.BRC for 0, BIT_COUNT, NOUT, the STATUS fields BUSY
at bit 0, DONE at 1, COMPLETE at 2, ERR at 6:4, MODE at 8 and BRC at 18:16, CURSOR, SAMPLES, RESULT as CURSOR or its
negation modulo 2^W_CNT, and 0 for 7 and above. (Rests on 42_host_interface.md R196, 10_state.md R21, 10_state.md R24,
10_state.md R27, 10_state.md R28.) -/
def Obligations.RegisterReadsGiveTheRegister : Prop :=
  ∀ (s : State) (n : Nat),
    exec (.hrd n) s = .next { s with reply := some (
      match n with
      | 0 => s.cmdBrc.toNat
      | 1 => s.bitCount
      | 2 => s.nout
      | 3 => s.busy.toNat + 2 * s.done.toNat + 4 * s.complete.toNat +
          16 * (match s.err with | .noError => 0 | .brcInvalid => 1 | .range => 2 | .overrun => 3) +
          256 * (match s.par.boundCheck with | .sampleBoundary => 0 | .perBit => 1) + 65536 * s.stBrc.toNat
      | 4 => s.cursor
      | 5 => s.samples
      | 6 => if s.complete then s.cursor else (2 ^ s.par.wCnt - s.cursor) % 2 ^ s.par.wCnt
      | _ => 0) }

/-- In every state with BUSY = 0, for every index below BITBUF_LEN and value of ELEM_W bits, BWR answers a next state
in which BITS[i] is v, every other BITS element is as before, and everything else is unchanged (but for the counter
that keys the free values). (Rests on 42_host_interface.md R197, 10_state.md R33.) -/
def Obligations.BitsWriteStoresOneElement : Prop :=
  ∀ (s : State) (i v : Nat), s.busy = false → i < s.par.bitbufLen → Fits s.par.elemW v →
    ∃ m, exec (.bwr i v) s = .next { s with bits := m, drawKey := s.drawKey + 1 } ∧
      ∀ a, Mem.read? m a = if a = i then some v else Mem.read? s.bits a

/-- In every state with BUSY = 0, for every index below OUT_CAP and value of OUT_W bits, OWR answers a next state in
which OUT[j] is v, every other OUT element is as before, and everything else is unchanged (but for the counter that
keys the free values). (Rests on 42_host_interface.md R199, 10_state.md R34.) -/
def Obligations.OutWriteStoresOneElement : Prop :=
  ∀ (s : State) (j v : Nat), s.busy = false → j < s.par.outCap → Fits s.par.outW v →
    ∃ m, exec (.owr j v) s = .next { s with out := m, drawKey := s.drawKey + 1 } ∧
      ∀ a, Mem.read? m a = if a = j then some v else Mem.read? s.out a

/-- In every state, BRD at an index below BITBUF_LEN and ORD at an index below OUT_CAP answer a next state that
differs only in the reply. The reply is the value of a written element, and some value of ELEM_W (OUT_W) bits for an
unwritten one, whatever the free value is. (Rests on 42_host_interface.md R198, 42_host_interface.md R200,
20_memory.md R52.) -/
def Obligations.ElementReadsGiveTheElement : Prop :=
  (∀ (s : State) (i : Nat), i < s.par.bitbufLen →
    ∃ v, exec (.brd i) s = .next { s with reply := some v } ∧
      (∀ u, Mem.read? s.bits i = some u → v = u) ∧ (Mem.read? s.bits i = none → Fits s.par.elemW v)) ∧
  (∀ (s : State) (j : Nat), j < s.par.outCap →
    ∃ v, exec (.ord j) s = .next { s with reply := some v } ∧
      (∀ u, Mem.read? s.out j = some u → v = u) ∧ (Mem.read? s.out j = none → Fits s.par.outW v))

/-- Where HRD, BRD or ORD answers a next state, that state differs from the one before only in the reply, and running
the same read there answers the same state again. This holds for unwritten elements too. (Rests on 20_memory.md R60.)
-/
def Obligations.HostReadsAreIdempotent : Prop :=
  ∀ (s t : State) (i : Instr), (∃ n, i = .hrd n ∨ i = .brd n ∨ i = .ord n) → exec i s = .next t →
    t = { s with reply := t.reply } ∧ exec i t = .next t

/-- In every state, BWR and BRD at an index of BITBUF_LEN or above are refused as bitsIndexOutOfRange, and OWR and ORD
at an index of OUT_CAP or above as outIndexOutOfRange. (Rests on 42_host_interface.md R190.) -/
def Obligations.HostIndexBeyondAMemoryIsRefused : Prop :=
  ∀ (s : State) (k v : Nat),
    (s.par.bitbufLen ≤ k → exec (.bwr k v) s = .refused .bitsIndexOutOfRange ∧
      exec (.brd k) s = .refused .bitsIndexOutOfRange) ∧
    (s.par.outCap ≤ k → exec (.owr k v) s = .refused .outIndexOutOfRange ∧
      exec (.ord k) s = .refused .outIndexOutOfRange)

/-- The model's choice, log entries 6 and 9: a value wider than its register or element is refused as valueTooWide,
busy or not, and a code word is refused as codeWordNotRecognised in every state whose next code-bit step does not
recognise it. (Rests on 42_host_interface.md R191, 42_host_interface.md R197, 41_code_tables.md R175.) -/
def Obligations.OtherStopsAreByName : Prop :=
  (∀ (s : State) (v : Nat), ¬ Fits 32 v → exec (.hwr 0 v) s = .refused .valueTooWide) ∧
  (∀ (s : State) (v : Nat), ¬ Fits s.par.wCnt v →
    exec (.hwr 1 v) s = .refused .valueTooWide ∧ exec (.hwr 2 v) s = .refused .valueTooWide) ∧
  (∀ (s : State) (i v : Nat), i < s.par.bitbufLen → ¬ Fits s.par.elemW v →
    exec (.bwr i v) s = .refused .valueTooWide) ∧
  (∀ (s : State) (j v : Nat), j < s.par.outCap → ¬ Fits s.par.outW v →
    exec (.owr j v) s = .refused .valueTooWide) ∧
  (∀ (s : State) (i : Instr), i.codeWord.isSome = true → s.nextCodeWord ≠ some i →
    exec i s = .refused .codeWordNotRecognised)

/-- Where HWR n (n > 0), HRD, BWR, BRD, OWR or ORD answers a next state: HWR changes at most BIT_COUNT (n = 1) or NOUT
(n = 2); HRD, BRD and ORD at most the reply; BWR at most BITS[i]; OWR at most OUT[j]; and, for the writes, the counter
that keys the free values. Every other BITS and OUT element reads as before, for every address. (Rests on 20_memory.md
R60, 42_host_interface.md R191, 42_host_interface.md R196, 42_host_interface.md R197, 42_host_interface.md R199.) -/
def Obligations.HostTransactionFrame : Prop :=
  ∀ s t : State,
    (∀ n v, n ≠ 0 → exec (.hwr n v) s = .next t →
      t = { s with bitCount := t.bitCount, nout := t.nout, drawKey := t.drawKey } ∧
      (n ≠ 1 → t.bitCount = s.bitCount) ∧ (n ≠ 2 → t.nout = s.nout)) ∧
    (∀ k, (exec (.hrd k) s = .next t ∨ exec (.brd k) s = .next t ∨ exec (.ord k) s = .next t) →
      t = { s with reply := t.reply }) ∧
    (∀ i v, exec (.bwr i v) s = .next t →
      t = { s with bits := t.bits, drawKey := t.drawKey } ∧
      ∀ a, a ≠ i → Mem.read? t.bits a = Mem.read? s.bits a) ∧
    (∀ j v, exec (.owr j v) s = .next t →
      t = { s with out := t.out, drawKey := t.drawKey } ∧ ∀ a, a ≠ j → Mem.read? t.out a = Mem.read? s.out a)

/-- In every state with BUSY = 1 and PHASE = SIGN: where SAMPLES = NOUT or CURSOR >= BIT_COUNT, the DEC step ends the
command with COMPLETE = (SAMPLES = NOUT), BUSY = 0, DONE = 1, PHASE = IDLE; otherwise, with CURSOR < BITBUF_LEN, it
advances CURSOR by 1, puts the bit read (nonzero is 1) into SIGNL, clears ACC and LEN and goes to PHASE = CODE; and it
raises OVERRUN at an index that does not exist, which no reachable state has. Everything else is unchanged (but for
the ghost list at an end and the counter that keys the free values). (States R93.) -/
def Obligations.SampleStartStep : Prop :=
  ∀ s : State, s.busy = true → s.phase = .sign →
    (s.samples = s.nout ∨ s.bitCount ≤ s.cursor →
      s.decStep = .next
        { s with
          complete := decide (s.samples = s.nout), busy := false, done := true, phase := .idle,
          ghost := s.ghost ++ [⟨s.stBrc, s.bitCount, s.nout, .ended s.cursor s.samples (decide (s.samples = s.nout)) s.err⟩],
          drawKey := s.drawKey + 1 }) ∧
    (s.samples ≠ s.nout → s.cursor < s.bitCount → s.cursor < s.par.bitbufLen →
      s.decStep = .next
        { s with
          cursor := s.cursor + 1, signl := decide (s.readBits s.cursor ≠ 0), acc := 0, len := 0, phase := .code,
          drawKey := s.drawKey + 1 }) ∧
    (s.samples ≠ s.nout → s.cursor < s.bitCount → s.par.bitbufLen ≤ s.cursor →
      s.decStep = .next
        { s with
          err := .overrun, complete := false, busy := false, done := true, phase := .idle,
          ghost := s.ghost ++ [⟨s.stBrc, s.bitCount, s.nout, .ended s.cursor s.samples false .overrun⟩],
          drawKey := s.drawKey + 1 })

/-- In every state with BUSY = 1, PHASE = CODE and a level in STATUS.BRC: in PER_BIT mode with CURSOR >= BIT_COUNT the
DEC step ends the command with COMPLETE = 0; otherwise at CURSOR >= BITBUF_LEN it raises OVERRUN; otherwise it reads
one bit, advances CURSOR, sets ACC to (ACC << 1) | b and LEN to LEN + 1, and, where that node is the code word of
magnitude m, writes SIGNL ? m + K : m to OUT[SAMPLES], increments SAMPLES and returns to PHASE = SIGN. Everything else
is unchanged (but for the ghost list at an end and the counter that keys the free values). (States R94.) -/
def Obligations.CodeBitStep : Prop :=
  ∀ (s : State) (lv : Level), s.busy = true → s.phase = .code → Level.ofField s.stBrc = some lv →
    (s.par.boundCheck = .perBit → s.bitCount ≤ s.cursor →
      s.decStep = .next
        { s with
          complete := false, busy := false, done := true, phase := .idle,
          ghost := s.ghost ++ [⟨s.stBrc, s.bitCount, s.nout, .ended s.cursor s.samples false s.err⟩],
          drawKey := s.drawKey + 1 }) ∧
    (¬ (s.par.boundCheck = .perBit ∧ s.bitCount ≤ s.cursor) → s.par.bitbufLen ≤ s.cursor →
      s.decStep = .next
        { s with
          err := .overrun, complete := false, busy := false, done := true, phase := .idle,
          ghost := s.ghost ++ [⟨s.stBrc, s.bitCount, s.nout, .ended s.cursor s.samples false .overrun⟩],
          drawKey := s.drawKey + 1 }) ∧
    (¬ (s.par.boundCheck = .perBit ∧ s.bitCount ≤ s.cursor) → s.cursor < s.par.bitbufLen →
      ∀ acc' : BitVec 9, acc' = (s.acc <<< 1) ||| (if s.readBits s.cursor ≠ 0 then 1 else 0) →
        (matchCode lv (s.len + 1).toNat acc'.toNat = none →
          s.decStep = .next
            { s with cursor := s.cursor + 1, acc := acc', len := s.len + 1, drawKey := s.drawKey + 1 }) ∧
        (∀ m, matchCode lv (s.len + 1).toNat acc'.toNat = some m → s.samples < s.par.outCap →
          s.decStep = .next
            { s with
              cursor := s.cursor + 1, acc := acc', len := s.len + 1,
              out := Mem.write s.out s.samples (if s.signl then m + lv.alphabet else m),
              samples := s.samples + 1, phase := .sign, drawKey := s.drawKey + 1 }))

/-- For every state and sign, and for each BRC0 code word (R121 to R124): where DEC stands at the last bit of that
code word, with that sign read and an OUT element left, the instruction answers the next state in which CURSOR is one
more, ACC and LEN are the code word, OUT[SAMPLES] is the output value that the opcode table lists for that sign,
SAMPLES is one more and PHASE is SIGN; everything else is unchanged (but for the counter that keys the free values).
(Rests on 41_code_tables.md R121 to R124, 40_decode_operation.md R94, 30_encoding.md R76.) -/
def Obligations.Brc0CodeWordsWriteTheirOutput : Prop :=
  ∀ (s : State) (sign : Bool),
    (s.AtLastBit .brc0 sign [] O →
      exec (.cwBrc0M0 sign) s = .next
        (s.afterCode [O] (if sign then 4 else 0))) ∧
    (s.AtLastBit .brc0 sign [I] O →
      exec (.cwBrc0M1 sign) s = .next
        (s.afterCode [I, O] (if sign then 5 else 1))) ∧
    (s.AtLastBit .brc0 sign [I, I] O →
      exec (.cwBrc0M2 sign) s = .next
        (s.afterCode [I, I, O] (if sign then 6 else 2))) ∧
    (s.AtLastBit .brc0 sign [I, I] I →
      exec (.cwBrc0M3 sign) s = .next
        (s.afterCode [I, I, I] (if sign then 7 else 3)))

/-- For every state and sign, and for each BRC1 code word (R127 to R131): where DEC stands at the last bit of that
code word, with that sign read and an OUT element left, the instruction answers the next state in which CURSOR is one
more, ACC and LEN are the code word, OUT[SAMPLES] is the output value that the opcode table lists for that sign,
SAMPLES is one more and PHASE is SIGN; everything else is unchanged (but for the counter that keys the free values).
(Rests on 41_code_tables.md R127 to R131, 40_decode_operation.md R94, 30_encoding.md R76.) -/
def Obligations.Brc1CodeWordsWriteTheirOutput : Prop :=
  ∀ (s : State) (sign : Bool),
    (s.AtLastBit .brc1 sign [] O →
      exec (.cwBrc1M0 sign) s = .next
        (s.afterCode [O] (if sign then 5 else 0))) ∧
    (s.AtLastBit .brc1 sign [I] O →
      exec (.cwBrc1M1 sign) s = .next
        (s.afterCode [I, O] (if sign then 6 else 1))) ∧
    (s.AtLastBit .brc1 sign [I, I] O →
      exec (.cwBrc1M2 sign) s = .next
        (s.afterCode [I, I, O] (if sign then 7 else 2))) ∧
    (s.AtLastBit .brc1 sign [I, I, I] O →
      exec (.cwBrc1M3 sign) s = .next
        (s.afterCode [I, I, I, O] (if sign then 8 else 3))) ∧
    (s.AtLastBit .brc1 sign [I, I, I] I →
      exec (.cwBrc1M4 sign) s = .next
        (s.afterCode [I, I, I, I] (if sign then 9 else 4)))

/-- For every state and sign, and for each BRC2 code word (R134 to R140): where DEC stands at the last bit of that
code word, with that sign read and an OUT element left, the instruction answers the next state in which CURSOR is one
more, ACC and LEN are the code word, OUT[SAMPLES] is the output value that the opcode table lists for that sign,
SAMPLES is one more and PHASE is SIGN; everything else is unchanged (but for the counter that keys the free values).
(Rests on 41_code_tables.md R134 to R140, 40_decode_operation.md R94, 30_encoding.md R76.) -/
def Obligations.Brc2CodeWordsWriteTheirOutput : Prop :=
  ∀ (s : State) (sign : Bool),
    (s.AtLastBit .brc2 sign [] O →
      exec (.cwBrc2M0 sign) s = .next
        (s.afterCode [O] (if sign then 7 else 0))) ∧
    (s.AtLastBit .brc2 sign [I] O →
      exec (.cwBrc2M1 sign) s = .next
        (s.afterCode [I, O] (if sign then 8 else 1))) ∧
    (s.AtLastBit .brc2 sign [I, I] O →
      exec (.cwBrc2M2 sign) s = .next
        (s.afterCode [I, I, O] (if sign then 9 else 2))) ∧
    (s.AtLastBit .brc2 sign [I, I, I] O →
      exec (.cwBrc2M3 sign) s = .next
        (s.afterCode [I, I, I, O] (if sign then 10 else 3))) ∧
    (s.AtLastBit .brc2 sign [I, I, I, I] O →
      exec (.cwBrc2M4 sign) s = .next
        (s.afterCode [I, I, I, I, O] (if sign then 11 else 4))) ∧
    (s.AtLastBit .brc2 sign [I, I, I, I, I] O →
      exec (.cwBrc2M5 sign) s = .next
        (s.afterCode [I, I, I, I, I, O] (if sign then 12 else 5))) ∧
    (s.AtLastBit .brc2 sign [I, I, I, I, I] I →
      exec (.cwBrc2M6 sign) s = .next
        (s.afterCode [I, I, I, I, I, I] (if sign then 13 else 6)))

/-- For every state and sign, and for each BRC3 code word (R143 to R152): where DEC stands at the last bit of that
code word, with that sign read and an OUT element left, the instruction answers the next state in which CURSOR is one
more, ACC and LEN are the code word, OUT[SAMPLES] is the output value that the opcode table lists for that sign,
SAMPLES is one more and PHASE is SIGN; everything else is unchanged (but for the counter that keys the free values).
(Rests on 41_code_tables.md R143 to R152, 40_decode_operation.md R94, 30_encoding.md R76.) -/
def Obligations.Brc3CodeWordsWriteTheirOutput : Prop :=
  ∀ (s : State) (sign : Bool),
    (s.AtLastBit .brc3 sign [O] O →
      exec (.cwBrc3M0 sign) s = .next
        (s.afterCode [O, O] (if sign then 10 else 0))) ∧
    (s.AtLastBit .brc3 sign [O] I →
      exec (.cwBrc3M1 sign) s = .next
        (s.afterCode [O, I] (if sign then 11 else 1))) ∧
    (s.AtLastBit .brc3 sign [I] O →
      exec (.cwBrc3M2 sign) s = .next
        (s.afterCode [I, O] (if sign then 12 else 2))) ∧
    (s.AtLastBit .brc3 sign [I, I] O →
      exec (.cwBrc3M3 sign) s = .next
        (s.afterCode [I, I, O] (if sign then 13 else 3))) ∧
    (s.AtLastBit .brc3 sign [I, I, I] O →
      exec (.cwBrc3M4 sign) s = .next
        (s.afterCode [I, I, I, O] (if sign then 14 else 4))) ∧
    (s.AtLastBit .brc3 sign [I, I, I, I] O →
      exec (.cwBrc3M5 sign) s = .next
        (s.afterCode [I, I, I, I, O] (if sign then 15 else 5))) ∧
    (s.AtLastBit .brc3 sign [I, I, I, I, I] O →
      exec (.cwBrc3M6 sign) s = .next
        (s.afterCode [I, I, I, I, I, O] (if sign then 16 else 6))) ∧
    (s.AtLastBit .brc3 sign [I, I, I, I, I, I] O →
      exec (.cwBrc3M7 sign) s = .next
        (s.afterCode [I, I, I, I, I, I, O] (if sign then 17 else 7))) ∧
    (s.AtLastBit .brc3 sign [I, I, I, I, I, I, I] O →
      exec (.cwBrc3M8 sign) s = .next
        (s.afterCode [I, I, I, I, I, I, I, O] (if sign then 18 else 8))) ∧
    (s.AtLastBit .brc3 sign [I, I, I, I, I, I, I] I →
      exec (.cwBrc3M9 sign) s = .next
        (s.afterCode [I, I, I, I, I, I, I, I] (if sign then 19 else 9)))

/-- For every state and sign, and for each BRC4 code word (R155 to R170): where DEC stands at the last bit of that
code word, with that sign read and an OUT element left, the instruction answers the next state in which CURSOR is one
more, ACC and LEN are the code word, OUT[SAMPLES] is the output value that the opcode table lists for that sign,
SAMPLES is one more and PHASE is SIGN; everything else is unchanged (but for the counter that keys the free values).
(Rests on 41_code_tables.md R155 to R170, 40_decode_operation.md R94, 30_encoding.md R76.) -/
def Obligations.Brc4CodeWordsWriteTheirOutput : Prop :=
  ∀ (s : State) (sign : Bool),
    (s.AtLastBit .brc4 sign [O] O →
      exec (.cwBrc4M0 sign) s = .next
        (s.afterCode [O, O] (if sign then 16 else 0))) ∧
    (s.AtLastBit .brc4 sign [O, I] O →
      exec (.cwBrc4M1 sign) s = .next
        (s.afterCode [O, I, O] (if sign then 17 else 1))) ∧
    (s.AtLastBit .brc4 sign [O, I] I →
      exec (.cwBrc4M2 sign) s = .next
        (s.afterCode [O, I, I] (if sign then 18 else 2))) ∧
    (s.AtLastBit .brc4 sign [I, O] O →
      exec (.cwBrc4M3 sign) s = .next
        (s.afterCode [I, O, O] (if sign then 19 else 3))) ∧
    (s.AtLastBit .brc4 sign [I, O] I →
      exec (.cwBrc4M4 sign) s = .next
        (s.afterCode [I, O, I] (if sign then 20 else 4))) ∧
    (s.AtLastBit .brc4 sign [I, I, O] O →
      exec (.cwBrc4M5 sign) s = .next
        (s.afterCode [I, I, O, O] (if sign then 21 else 5))) ∧
    (s.AtLastBit .brc4 sign [I, I, O] I →
      exec (.cwBrc4M6 sign) s = .next
        (s.afterCode [I, I, O, I] (if sign then 22 else 6))) ∧
    (s.AtLastBit .brc4 sign [I, I, I] O →
      exec (.cwBrc4M7 sign) s = .next
        (s.afterCode [I, I, I, O] (if sign then 23 else 7))) ∧
    (s.AtLastBit .brc4 sign [I, I, I, I] O →
      exec (.cwBrc4M8 sign) s = .next
        (s.afterCode [I, I, I, I, O] (if sign then 24 else 8))) ∧
    (s.AtLastBit .brc4 sign [I, I, I, I, I] O →
      exec (.cwBrc4M9 sign) s = .next
        (s.afterCode [I, I, I, I, I, O] (if sign then 25 else 9))) ∧
    (s.AtLastBit .brc4 sign [I, I, I, I, I, I, O] O →
      exec (.cwBrc4M10 sign) s = .next
        (s.afterCode [I, I, I, I, I, I, O, O] (if sign then 26 else 10))) ∧
    (s.AtLastBit .brc4 sign [I, I, I, I, I, I, O] I →
      exec (.cwBrc4M11 sign) s = .next
        (s.afterCode [I, I, I, I, I, I, O, I] (if sign then 27 else 11))) ∧
    (s.AtLastBit .brc4 sign [I, I, I, I, I, I, I, O] O →
      exec (.cwBrc4M12 sign) s = .next
        (s.afterCode [I, I, I, I, I, I, I, O, O] (if sign then 28 else 12))) ∧
    (s.AtLastBit .brc4 sign [I, I, I, I, I, I, I, O] I →
      exec (.cwBrc4M13 sign) s = .next
        (s.afterCode [I, I, I, I, I, I, I, O, I] (if sign then 29 else 13))) ∧
    (s.AtLastBit .brc4 sign [I, I, I, I, I, I, I, I] O →
      exec (.cwBrc4M14 sign) s = .next
        (s.afterCode [I, I, I, I, I, I, I, I, O] (if sign then 30 else 14))) ∧
    (s.AtLastBit .brc4 sign [I, I, I, I, I, I, I, I] I →
      exec (.cwBrc4M15 sign) s = .next
        (s.afterCode [I, I, I, I, I, I, I, I, I] (if sign then 31 else 15)))

/-- Where a DEC step, or the instruction of a code word, answers a next state, CMD, BIT_COUNT, NOUT, STATUS.BRC, every
BITS element, the parameters, the pending transitions and the reply are unchanged; SAMPLES stays or grows by 1; every
OUT element but OUT[SAMPLES] reads as before, and that one too where SAMPLES stays. (Rests on 40_decode_operation.md
R102, 20_memory.md R68, 20_memory.md R63.) -/
def Obligations.DecStepFrame : Prop :=
  ∀ s t : State, (s.decStep = .next t ∨ ∃ i, i.codeWord.isSome = true ∧ exec i s = .next t) →
    t.cmdBrc = s.cmdBrc ∧ t.bitCount = s.bitCount ∧ t.nout = s.nout ∧ t.stBrc = s.stBrc ∧
    (∀ a, Mem.read? t.bits a = Mem.read? s.bits a) ∧ t.par = s.par ∧ t.inbox = s.inbox ∧ t.reply = s.reply ∧
    (t.samples = s.samples ∨ t.samples = s.samples + 1) ∧
    (∀ a, a ≠ s.samples → Mem.read? t.out a = Mem.read? s.out a) ∧
    (t.samples = s.samples → ∀ a, Mem.read? t.out a = Mem.read? s.out a)

/-- Where a DEC step from BUSY = 1 answers a next state, CURSOR is one more if the command goes on, and unchanged if
it ended. (Rests on 40_decode_operation.md R104, 10_state.md R37, 40_decode_operation.md R100.) -/
def Obligations.CursorCountsElementsRead : Prop :=
  ∀ s t : State, s.busy = true → s.decStep = .next t →
    (t.busy = true → t.cursor = s.cursor + 1) ∧ (t.busy = false → t.cursor = s.cursor)

/-- For every level, code word of magnitude m and sign: from a running sample start with SAMPLES different from NOUT
and below OUT_CAP, with the symbol's bits written at CURSOR, CURSOR + 1, ... and the whole symbol within BIT_COUNT, 1
+ L steps of the machine with nothing pending lead to the next sample start with CURSOR advanced by 1 + L,
OUT[SAMPLES] = sign ? m + K : m and SAMPLES one more, everything else unchanged but for SIGNL, ACC, LEN and the
counter that keys the free values. (Rests on 30_encoding.md R74, 40_decode_operation.md R93, 40_decode_operation.md
R94, 95_test_vectors.md S1.) -/
def Obligations.SymbolTakesOneStepPerBit : Prop :=
  ∀ (s : State) (lv : Level) (m : Nat) (code : List Bool) (sign : Bool),
    lv.table[m]? = some code → Level.ofField s.stBrc = some lv → s.busy = true → s.phase = .sign → s.inbox = [] →
    s.samples ≠ s.nout → s.samples < s.par.outCap →
    s.cursor + (code.length + 1) ≤ s.bitCount → s.bitCount ≤ s.par.bitbufLen →
    (∀ k b, (sign :: code)[k]? = some b → ∃ v, Mem.read? s.bits (s.cursor + k) = some v ∧ decide (v ≠ 0) = b) →
      Host.Core.run core (code.length + 1) s = .next
        { s with
          cursor := s.cursor + (code.length + 1), signl := sign, acc := BitVec.ofNat 9 (val code),
          len := BitVec.ofNat 4 code.length,
          out := Mem.write s.out s.samples (if sign then m + lv.alphabet else m), samples := s.samples + 1,
          drawKey := s.drawKey + (code.length + 1) }

/-- For every running command at its start (CURSOR = SAMPLES = 0, PHASE = SIGN, nothing pending, BIT_COUNT <=
BITBUF_LEN, NOUT <= OUT_CAP), in either mode, decode_fn has a result r on the bits that DEC reads, an unwritten
element giving its draw at the step that reads it. Where CURSOR_r <= BITBUF_LEN, CURSOR_r + 1 steps end the command
without an error, with CURSOR, SAMPLES and COMPLETE those of r, each of its SAMPLES values in OUT, and every later OUT
element unchanged. Where CURSOR_r > BITBUF_LEN, BITBUF_LEN + 1 steps end it with OVERRUN. The first holds in PER_BIT
mode always, where CURSOR_r <= BIT_COUNT, and in SAMPLE_BOUNDARY mode wherever BIT_COUNT + LMAX <= BITBUF_LEN, since
CURSOR_r <= BIT_COUNT + LMAX. How draws are keyed is the model's choice, log entry 2. (Rests on 40_decode_operation.md
R103, 40_decode_operation.md R106, 40_decode_operation.md R107, 60_exceptions.md R214, 70_reset_and_hazards.md R252,
20_memory.md R52.) -/
def Obligations.StepMachineComputesTheWholeCommand : Prop :=
  ∀ (s : State) (lv : Level), Level.ofField s.stBrc = some lv → s.busy = true → s.phase = .sign → s.inbox = [] →
    s.cursor = 0 → s.samples = 0 → s.bitCount ≤ s.par.bitbufLen → s.nout ≤ s.par.outCap →
      ∃ r, decodeFn lv s.par.boundCheck s.bitCount s.nout s.commandBit = some r ∧ r.out.length = r.samples ∧
        r.cursor ≤ s.bitCount + lv.lmax ∧ (s.par.boundCheck = .perBit → r.cursor ≤ s.bitCount) ∧
        (r.cursor ≤ s.par.bitbufLen →
          ∃ t, Host.Core.run core (r.cursor + 1) s = .next t ∧ t.busy = false ∧ t.done = true ∧ t.err = s.err ∧
            t.cursor = r.cursor ∧ t.samples = r.samples ∧ t.complete = r.complete ∧
            (∀ j v, r.out[j]? = some v → Mem.read? t.out j = some v) ∧
            ∀ j, r.samples ≤ j → Mem.read? t.out j = Mem.read? s.out j) ∧
        (s.par.bitbufLen < r.cursor →
          ∃ t, Host.Core.run core (s.par.bitbufLen + 1) s = .next t ∧ t.busy = false ∧ t.done = true ∧
            t.err = .overrun ∧ t.cursor = s.par.bitbufLen ∧ t.complete = false)

/-- For every level, mode and list of magnitudes of that level with their signs, where the bits begin with the
concatenated symbols, decode_fn with BIT_COUNT the total length and NOUT the number of symbols is complete, with
CURSOR the total length and the output value of each symbol in order. (Rests on 95_test_vectors.md S3,
40_decode_operation.md R103, 40_decode_operation.md R105.) -/
def Obligations.ConcatenatedSymbolsDecode : Prop :=
  ∀ (lv : Level) (bc : BoundCheck) (symbols : List (Nat × Bool)) (bits : List Bool) (bit : Nat → Bool),
    (∀ x ∈ symbols, x.1 < lv.alphabet) → bits = (symbols.map fun x => x.2 :: lv.table.getD x.1 []).flatten →
    (∀ i b, bits[i]? = some b → bit i = b) →
      decodeFn lv bc bits.length symbols.length bit =
        some { cursor := bits.length, samples := symbols.length, complete := true,
               out := symbols.map fun x => if x.2 then x.1 + lv.alphabet else x.1 }

/-- From every state that meets the invariant with BUSY = 1 and nothing pending, k steps lead to BUSY = 0 and DONE =
1, where k is the number of elements those steps read plus 1; the final CURSOR is at most BIT_COUNT + LMAX, and at
most BIT_COUNT in PER_BIT mode. (Rests on 70_reset_and_hazards.md R252, 70_reset_and_hazards.md R253,
40_decode_operation.md R106, 40_decode_operation.md R107.) -/
def Obligations.RunningCommandEnds : Prop :=
  ∀ (s : State) (lv : Level), s.Inv → s.busy = true → s.inbox = [] → Level.ofField s.stBrc = some lv →
    ∃ k t, Host.Core.run core k s = .next t ∧ t.busy = false ∧ t.done = true ∧ k = t.cursor - s.cursor + 1 ∧
      s.cursor ≤ t.cursor ∧ t.cursor ≤ s.bitCount + lv.lmax ∧
      (s.par.boundCheck = .perBit → t.cursor ≤ s.bitCount)

/-- For each of DECODE.BRC0 to DECODE.BRC4 from every idle state with counts within the memories: with NOUT = 0 the
first DEC step after START ends the command with COMPLETE = 1, and with BIT_COUNT = 0 and NOUT >= 1 with COMPLETE = 0;
in both, CURSOR = 0, RESULT = 0, no error, every OUT element unchanged. (States R108.) -/
def Obligations.ZeroCases : Prop :=
  ∀ s : State, s.busy = false → s.bitCount ≤ s.par.bitbufLen → s.nout ≤ s.par.outCap →
    ∀ i ∈ [Instr.decodeBrc0, .decodeBrc1, .decodeBrc2, .decodeBrc3, .decodeBrc4],
      (s.nout = 0 → ∃ u t, exec i s = .next u ∧ u.decStep = .next t ∧ t.busy = false ∧ t.done = true ∧
        t.complete = true ∧ t.err = .noError ∧ t.cursor = 0 ∧ t.samples = 0 ∧ t.result = 0 ∧ t.out = s.out) ∧
      (s.bitCount = 0 → 1 ≤ s.nout → ∃ u t, exec i s = .next u ∧ u.decStep = .next t ∧ t.busy = false ∧
        t.done = true ∧ t.complete = false ∧ t.err = .noError ∧ t.cursor = 0 ∧ t.samples = 0 ∧ t.result = 0 ∧
        t.out = s.out)

/-- In every state that meets the invariant with BUSY = 1, PHASE = SIGN and CURSOR = BIT_COUNT, the DEC step ends the
command: with COMPLETE = 1 and RESULT = +BIT_COUNT where SAMPLES = NOUT, and with COMPLETE = 0 and RESULT = -BIT_COUNT
otherwise. (States R109.) -/
def Obligations.ExactBoundary : Prop :=
  ∀ s : State, s.Inv → s.busy = true → s.phase = .sign → s.cursor = s.bitCount →
    ∃ t, s.decStep = .next t ∧ t.busy = false ∧ t.done = true ∧
      (s.samples = s.nout → t.complete = true ∧ signedOf t.par.wCnt t.result = (s.bitCount : Int)) ∧
      (s.samples ≠ s.nout → t.complete = false ∧ signedOf t.par.wCnt t.result = -(s.bitCount : Int))

/-- From every state that meets the invariant, where a DEC step ends the running command without an error, COMPLETE =
1 exactly when SAMPLES = NOUT, with RESULT = +CURSOR; otherwise SAMPLES < NOUT, CURSOR >= BIT_COUNT and RESULT =
-CURSOR, and in PER_BIT mode CURSOR = BIT_COUNT and RESULT = -BIT_COUNT; in PER_BIT mode CURSOR <= BIT_COUNT where it
is complete too; and an end inside a code is one of PER_BIT mode, with COMPLETE = 0. (Rests on 40_decode_operation.md
R101, 40_decode_operation.md R105, 40_decode_operation.md R107, 10_state.md R27.) -/
def Obligations.CompleteMeansAllSamplesWritten : Prop :=
  ∀ s t : State, s.Inv → s.busy = true → s.decStep = .next t → t.busy = false → t.err = .noError →
    (t.complete = true ↔ t.samples = t.nout) ∧
    (t.complete = true → signedOf t.par.wCnt t.result = (t.cursor : Int)) ∧
    (t.complete = false → t.samples < t.nout ∧ t.bitCount ≤ t.cursor ∧
      signedOf t.par.wCnt t.result = -(t.cursor : Int) ∧
      (t.par.boundCheck = .perBit → t.cursor = t.bitCount ∧ signedOf t.par.wCnt t.result = -(t.bitCount : Int))) ∧
    (t.par.boundCheck = .perBit → t.cursor ≤ t.bitCount) ∧
    (s.phase = .code → t.par.boundCheck = .perBit ∧ t.complete = false)

/-- From every state that meets the invariant, where a DEC step of a running command ends with ERR = OVERRUN: the step
was a code-bit step, the mode is SAMPLE_BOUNDARY, CURSOR = BITBUF_LEN and is not below BIT_COUNT, BIT_COUNT + LMAX
exceeds BITBUF_LEN, SAMPLES and every OUT element are unchanged, and COMPLETE = 0, DONE = 1, BUSY = 0. And such a
code-bit step at CURSOR >= BITBUF_LEN does end so. (States R214.) -/
def Obligations.OverrunIsPrecise : Prop :=
  (∀ (s t : State) (lv : Level), s.Inv → s.busy = true → Level.ofField s.stBrc = some lv →
    s.decStep = .next t → t.err = .overrun →
      s.phase = .code ∧ s.par.boundCheck = .sampleBoundary ∧ t.cursor = s.par.bitbufLen ∧ t.cursor = s.cursor ∧
      s.bitCount ≤ t.cursor ∧ s.par.bitbufLen < s.bitCount + lv.lmax ∧ t.samples = s.samples ∧ t.out = s.out ∧
      t.complete = false ∧ t.done = true ∧ t.busy = false) ∧
  (∀ s : State, s.Inv → s.phase = .code → s.par.boundCheck = .sampleBoundary → s.par.bitbufLen ≤ s.cursor →
    ∃ t, s.decStep = .next t ∧ t.err = .overrun)

/-- From every state that meets the invariant, where a DEC step of a running command reads the element at CURSOR
(CURSOR advances), that index is below BITBUF_LEN and below BIT_COUNT + LMAX, and below BIT_COUNT in PER_BIT mode.
(Rests on 20_memory.md R58, 40_decode_operation.md R106, 40_decode_operation.md R107.) -/
def Obligations.ReadsStayWithinTheirBounds : Prop :=
  ∀ (s t : State) (lv : Level), s.Inv → s.busy = true → Level.ofField s.stBrc = some lv →
    s.decStep = .next t → t.cursor = s.cursor + 1 →
      s.cursor < s.par.bitbufLen ∧ s.cursor < s.bitCount + lv.lmax ∧
      (s.par.boundCheck = .perBit → s.cursor < s.bitCount)

/-- From two idle states with the same parameters, counts, BITS and draws for the unwritten BITS elements, the same
DECODE command leads to states in which the command decodes alike, whatever OUT and the other registers, flags and
records were; and from two states in which a command decodes alike, a DEC step leads to two such states again. To
decode alike includes the same flags, CURSOR, SAMPLES and PHASE, and the same OUT elements below SAMPLES. How draws
are keyed is the model's choice, log entry 2. (Rests on 40_decode_operation.md R113, 70_reset_and_hazards.md R255,
20_memory.md R68.) -/
def Obligations.CommandDoesNotDependOnEarlierOnes : Prop :=
  (∀ (s t s' : State), s.busy = false → t.busy = false → s.par = t.par → s.bitCount = t.bitCount →
    s.nout = t.nout → s.bits = t.bits → State.SameDraws s t →
    ∀ i ∈ [Instr.decodeBrc0, .decodeBrc1, .decodeBrc2, .decodeBrc3, .decodeBrc4, .decodeBrc5, .decodeBrc6, .decodeBrc7],
      exec i s = .next s' → ∃ t', exec i t = .next t' ∧ State.SameCommand s' t') ∧
  (∀ s t s' : State, State.SameCommand s t → s.decStep = .next s' →
    ∃ t', t.decStep = .next t' ∧ State.SameCommand s' t')

/-- Where a host transaction is pending first, step is exec of the instruction it decodes to, in the state without it.
Where nothing is pending, or DEC is scheduled first, and the bit at CURSOR completes a code word, step is exec of that
code word's instruction (in the state without the scheduling). How pending transitions are held is the model's choice,
log entry 3. (Rests on 20_memory.md R64, 40_decode_operation.md R92, 30_encoding.md R78.) -/
def Obligations.StepRunsThePendingInstruction : Prop :=
  (∀ (s : State) (x : Txn) (rest : List Event), s.inbox = .txn x :: rest →
    step s = exec (decodeTxn x) { s with inbox := rest }) ∧
  (∀ (s : State) (i : Instr), s.nextCodeWord = some i →
    (s.inbox = [] → step s = exec i s) ∧
    (∀ rest, s.inbox = .dec :: rest → step s = exec i { s with inbox := rest }))

/-- In every state with BUSY = 0, a step with nothing pending answers the state itself, and a scheduling of DEC only
uses up that scheduling. That an idle machine answers its own state is the model's choice, log entry 4. (Rests on
40_decode_operation.md R92, 70_reset_and_hazards.md R253, 60_exceptions.md R224.) -/
def Obligations.IdleDecHasNoStep : Prop :=
  ∀ s : State, s.busy = false →
    (s.inbox = [] → step s = .next s) ∧ (∀ rest, s.inbox = .dec :: rest → step s = .next { s with inbox := rest })

/-- From every state that meets the invariant (the eight points of R41, the widths, the canonical memories, the bounds
on CURSOR and SAMPLES, the walk at an internal node), a step that answers a next state leads to one that meets it.
(Rests on 10_state.md R41, 10_state.md R25, 10_state.md R26, 10_state.md R33, 10_state.md R34, 40_decode_operation.md
R104, 40_decode_operation.md R106, 40_decode_operation.md R107.) -/
def Obligations.EveryStepKeepsTheInvariant : Prop :=
  ∀ s t : State, s.Inv → step s = .next t → t.Inv

/-- For every valid choice of parameters and every list of pending transitions, the reset state meets the invariant;
State.reset, the reset state of the instance that log entry 1 chooses, meets it. (Rests on 70_reset_and_hazards.md
R240, 10_state.md R42, 10_state.md R41.) -/
def Obligations.ResetMeetsTheInvariant : Prop :=
  (∀ (p : Params) (events : List Event), p.Valid → State.Inv { State.resetOf p with inbox := events }) ∧
    State.Inv State.reset

/-- In every state that a run from reset reaches under any order of host transactions, DEC steps and resets: BUSY = 1
exactly when PHASE is not IDLE; not both BUSY and DONE; COMPLETE implies DONE and no error; an error implies DONE, not
COMPLETE and not BUSY; ERR is 0 to 3; BUSY implies STATUS.BRC <= 4; SAMPLES <= NOUT while BUSY and at the step that
ends a command; and in PHASE = CODE, LEN < LMAX and no code word has length LEN and value ACC. (States R41.) -/
def Obligations.ReachableStatesMeetTheSpecInvariants : Prop :=
  ∀ s : State, s.Reachable →
    (s.busy = true ↔ s.phase ≠ .idle) ∧
    ¬ (s.busy = true ∧ s.done = true) ∧
    (s.complete = true → s.done = true ∧ s.err = .noError) ∧
    (s.err ≠ .noError → s.done = true ∧ s.complete = false ∧ s.busy = false) ∧
    s.err.code.toNat ≤ 3 ∧
    (s.busy = true → s.stBrc.toNat ≤ 4) ∧
    (s.busy = true → s.samples ≤ s.nout ∧ ∀ t, s.decStep = .next t → t.samples ≤ t.nout) ∧
    (s.phase = .code → ∃ lv, Level.ofField s.stBrc = some lv ∧ s.len.toNat < lv.lmax ∧
      matchCode lv s.len.toNat s.acc.toNat = none)

/-- From every state that meets the invariant, step answers no fault; and where BUSY = 1, the DEC step answers a next
state. (Rests on 70_reset_and_hazards.md R253, 20_memory.md R55, 10_state.md R41.) -/
def Obligations.NoStepFaults : Prop :=
  ∀ s : State, s.Inv → (∀ f, step s ≠ .fault f) ∧ (s.busy = true → ∃ t, s.decStep = .next t)

/-- Where a step answers a next state, the ghost list before is a prefix of the one after and the parameters are the
same; and where BUSY goes from 1 to 0 the list gains exactly one entry with the command's BRC, BIT_COUNT and NOUT:
ended by reset where a reset was pending first, and otherwise the final CURSOR, SAMPLES, COMPLETE and ERR. That the
parameters are fixed for an instance is R20; that State holds them is the model's choice, log entry 1. (Rests on
60_exceptions.md R225, 70_reset_and_hazards.md R241, 10_state.md R20.) -/
def Obligations.GhostListKeepsEveryOutcome : Prop :=
  ∀ s t : State, step s = .next t →
    s.ghost <+: t.ghost ∧ t.par = s.par ∧
    (s.busy = true → t.busy = false →
      (s.inbox.head? = some .reset ∧ t.ghost = s.ghost ++ [⟨s.stBrc, s.bitCount, s.nout, .byReset⟩]) ∨
      (s.inbox.head? ≠ some .reset ∧
        t.ghost = s.ghost ++ [⟨s.stBrc, s.bitCount, s.nout, .ended t.cursor t.samples t.complete t.err⟩]))

/-- For every choice of parameters, the reset state has CMD.BRC, BIT_COUNT, NOUT, BUSY, DONE, COMPLETE, ERR,
STATUS.BRC, CURSOR, SAMPLES, SIGNL, ACC and LEN 0, PHASE IDLE and every BITS and OUT element unwritten; every register
reads 0 but STATUS, which reads 256 in PER_BIT mode. (States R42.) -/
def Obligations.ResetStateHoldsTheResetValues : Prop :=
  ∀ p : Params,
    (State.resetOf p).cmdBrc = 0 ∧ (State.resetOf p).bitCount = 0 ∧ (State.resetOf p).nout = 0 ∧
    (State.resetOf p).busy = false ∧ (State.resetOf p).done = false ∧ (State.resetOf p).complete = false ∧
    (State.resetOf p).err = .noError ∧ (State.resetOf p).stBrc = 0 ∧ (State.resetOf p).cursor = 0 ∧
    (State.resetOf p).samples = 0 ∧ (State.resetOf p).phase = .idle ∧ (State.resetOf p).signl = false ∧
    (State.resetOf p).acc = 0 ∧ (State.resetOf p).len = 0 ∧
    (∀ a, Mem.read? (State.resetOf p).bits a = none ∧ Mem.read? (State.resetOf p).out a = none) ∧
    ∀ n, (State.resetOf p).readReg n = if n = 3 ∧ p.boundCheck = .perBit then 256 else 0

/-- In every state, busy or not, with a reset pending first, the step answers a next state with CMD.BRC, BIT_COUNT,
NOUT, CURSOR, SAMPLES, BUSY, DONE, COMPLETE, ERR, STATUS.BRC, SIGNL, ACC and LEN 0, PHASE IDLE, MODE per BOUND_CHECK,
every BITS and OUT element unwritten and the done output 0; the instance's parameters stay. (States R240.) -/
def Obligations.ResetTransition : Prop :=
  ∀ (s : State) (rest : List Event), s.inbox = .reset :: rest →
    ∃ t, step s = .next t ∧
      t.cmdBrc = 0 ∧ t.bitCount = 0 ∧ t.nout = 0 ∧ t.cursor = 0 ∧ t.samples = 0 ∧ t.busy = false ∧ t.done = false ∧
      t.complete = false ∧ t.err = .noError ∧ t.stBrc = 0 ∧ t.phase = .idle ∧ t.signl = false ∧ t.acc = 0 ∧
      t.len = 0 ∧ (∀ a, Mem.read? t.bits a = none ∧ Mem.read? t.out a = none) ∧ t.doneOutput = false ∧
      t.par = s.par ∧ t.readReg 3 = if s.par.boundCheck = .perBit then 256 else 0

/-- In every state HRD RESULT answers CURSOR where COMPLETE = 1 and (2^W_CNT - CURSOR) mod 2^W_CNT where it is 0; in
every state that meets the invariant, read as a W_CNT-bit two's complement integer, that is +CURSOR or -CURSOR; with
CURSOR = 0 it is 0 whatever COMPLETE is; at reset it is 0; and a write of it has no effect. (States R27.) -/
def Obligations.ResultIsTheSignedCursor : Prop :=
  (∀ s : State, exec (.hrd 6) s = .next { s with reply := some s.result } ∧
    s.result = if s.complete then s.cursor else (2 ^ s.par.wCnt - s.cursor) % 2 ^ s.par.wCnt) ∧
  (∀ s : State, s.cursor = 0 → s.result = 0) ∧
  (∀ s : State, s.Inv → signedOf s.par.wCnt s.result = if s.complete then (s.cursor : Int) else -(s.cursor : Int)) ∧
  (∀ p, (State.resetOf p).result = 0) ∧ (∀ (s : State) (v : Nat), exec (.hwr 6 v) s = .next s)
end

