-- ==== Sys2Proof/Laws/Decode.lean ====
section
/-! SUPPORT. The laws of the tables and the decoder: levels and fields, the matcher as a lookup, the children of an
internal node, and the rows of the code words. -/

namespace Sys2Proof

@[simp] theorem Level.ofField_field (lv : Level) : Level.ofField lv.field = some lv := by cases lv <;> rfl

/-- A field that selects a level is that level's field. -/
theorem Level.eq_field_of_ofField {b : BrcField} {lv : Level} (h : Level.ofField b = some lv) : b = lv.field := by
  revert h lv
  revert b
  decide

/-- The fields that select a level are 0 to 4 (30_encoding.md R71, R72). -/
theorem Level.ofField_isSome (b : BrcField) : (Level.ofField b).isSome = decide (b.toNat ≤ 4) := by
  revert b
  decide

theorem Level.exists_of_le {b : BrcField} (h : b.toNat ≤ 4) : ∃ lv, Level.ofField b = some lv :=
  Option.isSome_iff_exists.1 (by rw [Level.ofField_isSome]; simpa using h)

/-- A lookup that succeeds gives the position of a code word of that length and value. -/
theorem findCode_some {len acc m k : Nat} {cs : List (List Bool)} (h : findCode len acc m cs = some k) :
    ∃ j c, k = m + j ∧ cs[j]? = some c ∧ c.length = len ∧ val c = acc := by
  induction cs generalizing m with
  | nil => simp [findCode] at h
  | cons c rest ih =>
    unfold findCode at h
    split_ifs at h with hc
    · exact ⟨0, c, by simpa using h.symm, by simp, hc.1, hc.2⟩
    · obtain ⟨j, c', hk, hj, hl, hv⟩ := ih h
      exact ⟨j + 1, c', by omega, by simpa using hj, hl, hv⟩

/-- The matcher gives the position of a code word of the table (41_code_tables.md R175). -/
theorem matchCode_some {lv : Level} {len acc m : Nat} (h : matchCode lv len acc = some m) :
    ∃ c, lv.table[m]? = some c ∧ c.length = len ∧ val c = acc := by
  obtain ⟨j, c, hk, hj, hl, hv⟩ := findCode_some h
  exact ⟨c, by simpa [hk] using hj, hl, hv⟩

/-- A table has as many code words as its alphabet has magnitudes. -/
@[simp] theorem Level.length_table (lv : Level) : lv.table.length = lv.alphabet := by cases lv <;> rfl

theorem matchCode_lt {lv : Level} {len acc m : Nat} (h : matchCode lv len acc = some m) : m < lv.alphabet := by
  obtain ⟨c, hc, -, -⟩ := matchCode_some h
  rw [← Level.length_table]
  exact (List.getElem?_eq_some_iff.1 hc).1

/-- The internal nodes of a level's tree: the proper prefixes of its code words (41_code_tables.md R176). -/
def internalNodes (lv : Level) : List (Nat × Nat) :=
  lv.table.flatMap fun c => (List.range c.length).map fun n => (n, val (c.take n))

theorem isInternal_iff {lv : Level} {len acc : Nat} : isInternal lv len acc = true ↔ (len, acc) ∈ internalNodes lv := by
  simp only [isInternal, internalNodes, List.any_eq_true, List.mem_flatMap, List.mem_map, List.mem_range,
    Bool.and_eq_true, decide_eq_true_eq, Prod.mk.injEq]
  constructor
  · rintro ⟨c, hc, hl, hv⟩
    exact ⟨c, hc, len, hl, rfl, hv⟩
  · rintro ⟨c, hc, n, hn, rfl, hv⟩
    exact ⟨c, hc, hn, hv⟩

/-- Every internal node lies below LMAX and within its length (41_code_tables.md R177). -/
theorem isInternal_bounds {lv : Level} {len acc : Nat} (h : isInternal lv len acc = true) :
    len < lv.lmax ∧ acc < 2 ^ len ∧ lv.lmax ≤ 9 := by
  have key : ∀ x ∈ internalNodes lv, x.1 < lv.lmax ∧ x.2 < 2 ^ x.1 ∧ lv.lmax ≤ 9 := by cases lv <;> decide
  exact key _ (isInternal_iff.1 h)

/-- The root is an internal node: the walk stands there after the sign bit. -/
theorem isInternal_root (lv : Level) : isInternal lv 0 0 = true := by cases lv <;> decide

/-- Each child of an internal node is a leaf or an internal node (41_code_tables.md R176). -/
theorem matchCode_isSome_or_isInternal {lv : Level} {len acc : Nat} (h : isInternal lv len acc = true) (b : Bool) :
    (matchCode lv (len + 1) (2 * acc + b.toNat)).isSome = true ∨
      isInternal lv (len + 1) (2 * acc + b.toNat) = true := by
  have key : ∀ x ∈ internalNodes lv, ∀ b : Bool, (matchCode lv (x.1 + 1) (2 * x.2 + b.toNat)).isSome = true ∨
      isInternal lv (x.1 + 1) (2 * x.2 + b.toNat) = true := by cases lv <;> decide
  exact key _ (isInternal_iff.1 h) b

/-- Every magnitude of a level has a code-word row. -/
theorem codeInstr_isSome {lv : Level} {m : Nat} (h : m < lv.alphabet) (sign : Bool) :
    (codeInstr lv m sign).isSome = true := by
  have key : ∀ m < lv.alphabet, ∀ sign, (codeInstr lv m sign).isSome = true := by cases lv <;> decide
  exact key m h sign

/-- A code-word row names the level, magnitude and sign it stands for. -/
theorem codeWord_of_codeInstr {lv : Level} {m : Nat} {sign : Bool} {i : Instr} (h : codeInstr lv m sign = some i) :
    i.codeWord = some (lv, m, sign) := by
  unfold codeInstr at h
  split at h <;> first | (cases h; rfl) | cases h

@[simp] theorem valFrom_nil (acc : Nat) : valFrom acc [] = acc := rfl

@[simp] theorem valFrom_cons (acc : Nat) (b : Bool) (c : List Bool) :
    valFrom acc (b :: c) = valFrom (2 * acc + b.toNat) c := rfl

/-- The value of a string is that of its front, then of its last part. -/
theorem valFrom_append (acc : Nat) (c d : List Bool) : valFrom acc (c ++ d) = valFrom (valFrom acc c) d := by
  induction c generalizing acc with
  | nil => rfl
  | cons b c ih => simpa using ih _

end Sys2Proof
end

