-- ==== Sys2Proof/Laws/Mem.lean ====
section
/-! SUPPORT. The laws of element memories: a read after a write, the canonical form, and what a write lists. -/

namespace Sys2Proof.Machine

@[simp] theorem Mem.read?_nil (a : Nat) : Mem.read? [] a = none := rfl

/-- A read after a write: the value written at its index, the earlier value at every other. -/
theorem Mem.read?_write (m : Mem) (a c v : Nat) :
    Mem.read? (Mem.write m a v) c = if c = a then some v else Mem.read? m c := by
  induction m with
  | nil => simp [Mem.write, Mem.read?]
  | cons x rest ih =>
    obtain ⟨b, w⟩ := x
    unfold Mem.write
    split_ifs with hlt heq <;> simp only [Mem.read?, ih] <;> split_ifs <;> first | rfl | omega

@[simp] theorem Mem.read?_write_self (m : Mem) (a v : Nat) : Mem.read? (Mem.write m a v) a = some v := by
  simp [Mem.read?_write]

theorem Mem.read?_write_of_ne {m : Mem} {a c v : Nat} (h : c ≠ a) :
    Mem.read? (Mem.write m a v) c = Mem.read? m c := by
  simp [Mem.read?_write, h]

/-- What a write lists: the new pair, and otherwise only pairs listed before. -/
theorem Mem.mem_write {m : Mem} {a v : Nat} {x : Nat × Nat} (h : x ∈ Mem.write m a v) : x = (a, v) ∨ x ∈ m := by
  induction m with
  | nil => simpa [Mem.write] using h
  | cons y rest ih =>
    obtain ⟨b, w⟩ := y
    unfold Mem.write at h
    split_ifs at h with hlt heq
    · simpa using h
    · rcases List.mem_cons.1 h with h | h
      · exact .inl h
      · exact .inr (List.mem_cons_of_mem _ h)
    · rcases List.mem_cons.1 h with h | h
      · exact .inr (h ▸ List.mem_cons_self)
      · exact (ih h).imp_right (List.mem_cons_of_mem _)

/-- A write keeps the canonical form. -/
theorem Mem.wf_write {m : Mem} (h : Mem.wf m) (a v : Nat) : Mem.wf (Mem.write m a v) := by
  induction m with
  | nil => simp [Mem.write, Mem.wf]
  | cons x rest ih =>
    obtain ⟨b, w⟩ := x
    obtain ⟨hb, hrest⟩ := List.pairwise_cons.1 h
    unfold Mem.write
    split_ifs with hlt heq
    · exact List.pairwise_cons.2 ⟨fun y hy => by
        rcases List.mem_cons.1 hy with rfl | hy
        · exact hlt
        · exact hlt.trans (hb y hy), h⟩
    · subst heq
      exact List.pairwise_cons.2 ⟨hb, hrest⟩
    · refine List.pairwise_cons.2 ⟨fun y hy => ?_, ih hrest⟩
      rcases Mem.mem_write hy with rfl | hy
      · show b < a
        omega
      · exact hb y hy

/-- A write keeps a bound on every listed pair. -/
theorem Mem.forall_mem_write {m : Mem} {a v : Nat} {P : Nat × Nat → Prop} (h : ∀ x ∈ m, P x) (hav : P (a, v)) :
    ∀ x ∈ Mem.write m a v, P x := fun x hx => by
  rcases Mem.mem_write hx with rfl | hx
  · exact hav
  · exact h x hx

/-- The memories of the reset state are in canonical form. -/
theorem resetOf_mem_wf (p : Params) : Mem.wf (State.resetOf p).bits ∧ Mem.wf (State.resetOf p).out :=
  ⟨List.Pairwise.nil, List.Pairwise.nil⟩

end Sys2Proof.Machine
end

