-- ==== Sys2Proof/Laws/State.lean ====
section
/-! SUPPORT. One lemma per field per named update of the state, true by definition. -/

namespace Sys2Proof.Machine

/-! ## State.recordEnd -/

@[simp] theorem State.recordEnd_cmdBrc (s : State) : (State.recordEnd s).cmdBrc = s.cmdBrc := rfl
@[simp] theorem State.recordEnd_bitCount (s : State) : (State.recordEnd s).bitCount = s.bitCount := rfl
@[simp] theorem State.recordEnd_nout (s : State) : (State.recordEnd s).nout = s.nout := rfl
@[simp] theorem State.recordEnd_busy (s : State) : (State.recordEnd s).busy = s.busy := rfl
@[simp] theorem State.recordEnd_done (s : State) : (State.recordEnd s).done = s.done := rfl
@[simp] theorem State.recordEnd_complete (s : State) : (State.recordEnd s).complete = s.complete := rfl
@[simp] theorem State.recordEnd_err (s : State) : (State.recordEnd s).err = s.err := rfl
@[simp] theorem State.recordEnd_stBrc (s : State) : (State.recordEnd s).stBrc = s.stBrc := rfl
@[simp] theorem State.recordEnd_cursor (s : State) : (State.recordEnd s).cursor = s.cursor := rfl
@[simp] theorem State.recordEnd_samples (s : State) : (State.recordEnd s).samples = s.samples := rfl
@[simp] theorem State.recordEnd_phase (s : State) : (State.recordEnd s).phase = s.phase := rfl
@[simp] theorem State.recordEnd_signl (s : State) : (State.recordEnd s).signl = s.signl := rfl
@[simp] theorem State.recordEnd_acc (s : State) : (State.recordEnd s).acc = s.acc := rfl
@[simp] theorem State.recordEnd_len (s : State) : (State.recordEnd s).len = s.len := rfl
@[simp] theorem State.recordEnd_bits (s : State) : (State.recordEnd s).bits = s.bits := rfl
@[simp] theorem State.recordEnd_out (s : State) : (State.recordEnd s).out = s.out := rfl
@[simp] theorem State.recordEnd_ghost (s : State) : (State.recordEnd s).ghost =
    s.ghost ++ [⟨s.stBrc, s.bitCount, s.nout, .ended s.cursor s.samples s.complete s.err⟩] :=
  rfl
@[simp] theorem State.recordEnd_par (s : State) : (State.recordEnd s).par = s.par := rfl
@[simp] theorem State.recordEnd_inbox (s : State) : (State.recordEnd s).inbox = s.inbox := rfl
@[simp] theorem State.recordEnd_reply (s : State) : (State.recordEnd s).reply = s.reply := rfl
@[simp] theorem State.recordEnd_drawKey (s : State) : (State.recordEnd s).drawKey = s.drawKey := rfl

/-! ## State.finish -/

@[simp] theorem State.finish_cmdBrc (c : Bool) (s : State) : (State.finish c s).cmdBrc = s.cmdBrc := rfl
@[simp] theorem State.finish_bitCount (c : Bool) (s : State) : (State.finish c s).bitCount = s.bitCount := rfl
@[simp] theorem State.finish_nout (c : Bool) (s : State) : (State.finish c s).nout = s.nout := rfl
@[simp] theorem State.finish_busy (c : Bool) (s : State) : (State.finish c s).busy = false := rfl
@[simp] theorem State.finish_done (c : Bool) (s : State) : (State.finish c s).done = true := rfl
@[simp] theorem State.finish_complete (c : Bool) (s : State) : (State.finish c s).complete = c := rfl
@[simp] theorem State.finish_err (c : Bool) (s : State) : (State.finish c s).err = s.err := rfl
@[simp] theorem State.finish_stBrc (c : Bool) (s : State) : (State.finish c s).stBrc = s.stBrc := rfl
@[simp] theorem State.finish_cursor (c : Bool) (s : State) : (State.finish c s).cursor = s.cursor := rfl
@[simp] theorem State.finish_samples (c : Bool) (s : State) : (State.finish c s).samples = s.samples := rfl
@[simp] theorem State.finish_phase (c : Bool) (s : State) : (State.finish c s).phase = .idle := rfl
@[simp] theorem State.finish_signl (c : Bool) (s : State) : (State.finish c s).signl = s.signl := rfl
@[simp] theorem State.finish_acc (c : Bool) (s : State) : (State.finish c s).acc = s.acc := rfl
@[simp] theorem State.finish_len (c : Bool) (s : State) : (State.finish c s).len = s.len := rfl
@[simp] theorem State.finish_bits (c : Bool) (s : State) : (State.finish c s).bits = s.bits := rfl
@[simp] theorem State.finish_out (c : Bool) (s : State) : (State.finish c s).out = s.out := rfl
@[simp] theorem State.finish_ghost (c : Bool) (s : State) : (State.finish c s).ghost =
    s.ghost ++ [⟨s.stBrc, s.bitCount, s.nout, .ended s.cursor s.samples c s.err⟩] :=
  rfl
@[simp] theorem State.finish_par (c : Bool) (s : State) : (State.finish c s).par = s.par := rfl
@[simp] theorem State.finish_inbox (c : Bool) (s : State) : (State.finish c s).inbox = s.inbox := rfl
@[simp] theorem State.finish_reply (c : Bool) (s : State) : (State.finish c s).reply = s.reply := rfl
@[simp] theorem State.finish_drawKey (c : Bool) (s : State) : (State.finish c s).drawKey = s.drawKey := rfl

/-! ## State.raiseError -/

@[simp] theorem State.raiseError_cmdBrc (e : ErrCode) (s : State) : (State.raiseError e s).cmdBrc = s.cmdBrc := rfl
@[simp] theorem State.raiseError_bitCount (e : ErrCode) (s : State) : (State.raiseError e s).bitCount = s.bitCount :=
  rfl
@[simp] theorem State.raiseError_nout (e : ErrCode) (s : State) : (State.raiseError e s).nout = s.nout := rfl
@[simp] theorem State.raiseError_busy (e : ErrCode) (s : State) : (State.raiseError e s).busy = false := rfl
@[simp] theorem State.raiseError_done (e : ErrCode) (s : State) : (State.raiseError e s).done = true := rfl
@[simp] theorem State.raiseError_complete (e : ErrCode) (s : State) : (State.raiseError e s).complete = false := rfl
@[simp] theorem State.raiseError_err (e : ErrCode) (s : State) : (State.raiseError e s).err = e := rfl
@[simp] theorem State.raiseError_stBrc (e : ErrCode) (s : State) : (State.raiseError e s).stBrc = s.stBrc := rfl
@[simp] theorem State.raiseError_cursor (e : ErrCode) (s : State) : (State.raiseError e s).cursor = s.cursor := rfl
@[simp] theorem State.raiseError_samples (e : ErrCode) (s : State) : (State.raiseError e s).samples = s.samples := rfl
@[simp] theorem State.raiseError_phase (e : ErrCode) (s : State) : (State.raiseError e s).phase = .idle := rfl
@[simp] theorem State.raiseError_signl (e : ErrCode) (s : State) : (State.raiseError e s).signl = s.signl := rfl
@[simp] theorem State.raiseError_acc (e : ErrCode) (s : State) : (State.raiseError e s).acc = s.acc := rfl
@[simp] theorem State.raiseError_len (e : ErrCode) (s : State) : (State.raiseError e s).len = s.len := rfl
@[simp] theorem State.raiseError_bits (e : ErrCode) (s : State) : (State.raiseError e s).bits = s.bits := rfl
@[simp] theorem State.raiseError_out (e : ErrCode) (s : State) : (State.raiseError e s).out = s.out := rfl
@[simp] theorem State.raiseError_ghost (e : ErrCode) (s : State) : (State.raiseError e s).ghost =
    s.ghost ++ [⟨s.stBrc, s.bitCount, s.nout, .ended s.cursor s.samples false e⟩] :=
  rfl
@[simp] theorem State.raiseError_par (e : ErrCode) (s : State) : (State.raiseError e s).par = s.par := rfl
@[simp] theorem State.raiseError_inbox (e : ErrCode) (s : State) : (State.raiseError e s).inbox = s.inbox := rfl
@[simp] theorem State.raiseError_reply (e : ErrCode) (s : State) : (State.raiseError e s).reply = s.reply := rfl
@[simp] theorem State.raiseError_drawKey (e : ErrCode) (s : State) : (State.raiseError e s).drawKey = s.drawKey := rfl

/-! ## State.latch -/

@[simp] theorem State.latch_cmdBrc (b : BrcField) (s : State) : (State.latch b s).cmdBrc = b := rfl
@[simp] theorem State.latch_bitCount (b : BrcField) (s : State) : (State.latch b s).bitCount = s.bitCount := rfl
@[simp] theorem State.latch_nout (b : BrcField) (s : State) : (State.latch b s).nout = s.nout := rfl
@[simp] theorem State.latch_busy (b : BrcField) (s : State) : (State.latch b s).busy = s.busy := rfl
@[simp] theorem State.latch_done (b : BrcField) (s : State) : (State.latch b s).done = false := rfl
@[simp] theorem State.latch_complete (b : BrcField) (s : State) : (State.latch b s).complete = false := rfl
@[simp] theorem State.latch_err (b : BrcField) (s : State) : (State.latch b s).err = .noError := rfl
@[simp] theorem State.latch_stBrc (b : BrcField) (s : State) : (State.latch b s).stBrc = b := rfl
@[simp] theorem State.latch_cursor (b : BrcField) (s : State) : (State.latch b s).cursor = 0 := rfl
@[simp] theorem State.latch_samples (b : BrcField) (s : State) : (State.latch b s).samples = 0 := rfl
@[simp] theorem State.latch_phase (b : BrcField) (s : State) : (State.latch b s).phase = s.phase := rfl
@[simp] theorem State.latch_signl (b : BrcField) (s : State) : (State.latch b s).signl = s.signl := rfl
@[simp] theorem State.latch_acc (b : BrcField) (s : State) : (State.latch b s).acc = s.acc := rfl
@[simp] theorem State.latch_len (b : BrcField) (s : State) : (State.latch b s).len = s.len := rfl
@[simp] theorem State.latch_bits (b : BrcField) (s : State) : (State.latch b s).bits = s.bits := rfl
@[simp] theorem State.latch_out (b : BrcField) (s : State) : (State.latch b s).out = s.out := rfl
@[simp] theorem State.latch_ghost (b : BrcField) (s : State) : (State.latch b s).ghost = s.ghost := rfl
@[simp] theorem State.latch_par (b : BrcField) (s : State) : (State.latch b s).par = s.par := rfl
@[simp] theorem State.latch_inbox (b : BrcField) (s : State) : (State.latch b s).inbox = s.inbox := rfl
@[simp] theorem State.latch_reply (b : BrcField) (s : State) : (State.latch b s).reply = s.reply := rfl
@[simp] theorem State.latch_drawKey (b : BrcField) (s : State) : (State.latch b s).drawKey = s.drawKey := rfl

/-! ## State.takeCodeBit -/

@[simp] theorem State.takeCodeBit_cmdBrc (b : Bool) (s : State) : (State.takeCodeBit b s).cmdBrc = s.cmdBrc := rfl
@[simp] theorem State.takeCodeBit_bitCount (b : Bool) (s : State) : (State.takeCodeBit b s).bitCount = s.bitCount :=
  rfl
@[simp] theorem State.takeCodeBit_nout (b : Bool) (s : State) : (State.takeCodeBit b s).nout = s.nout := rfl
@[simp] theorem State.takeCodeBit_busy (b : Bool) (s : State) : (State.takeCodeBit b s).busy = s.busy := rfl
@[simp] theorem State.takeCodeBit_done (b : Bool) (s : State) : (State.takeCodeBit b s).done = s.done := rfl
@[simp] theorem State.takeCodeBit_complete (b : Bool) (s : State) : (State.takeCodeBit b s).complete = s.complete :=
  rfl
@[simp] theorem State.takeCodeBit_err (b : Bool) (s : State) : (State.takeCodeBit b s).err = s.err := rfl
@[simp] theorem State.takeCodeBit_stBrc (b : Bool) (s : State) : (State.takeCodeBit b s).stBrc = s.stBrc := rfl
@[simp] theorem State.takeCodeBit_cursor (b : Bool) (s : State) : (State.takeCodeBit b s).cursor = s.cursor + 1 := rfl
@[simp] theorem State.takeCodeBit_samples (b : Bool) (s : State) : (State.takeCodeBit b s).samples = s.samples := rfl
@[simp] theorem State.takeCodeBit_phase (b : Bool) (s : State) : (State.takeCodeBit b s).phase = s.phase := rfl
@[simp] theorem State.takeCodeBit_signl (b : Bool) (s : State) : (State.takeCodeBit b s).signl = s.signl := rfl
@[simp] theorem State.takeCodeBit_acc (b : Bool) (s : State) : (State.takeCodeBit b s).acc = s.nextAcc b := rfl
@[simp] theorem State.takeCodeBit_len (b : Bool) (s : State) : (State.takeCodeBit b s).len = s.nextLen := rfl
@[simp] theorem State.takeCodeBit_bits (b : Bool) (s : State) : (State.takeCodeBit b s).bits = s.bits := rfl
@[simp] theorem State.takeCodeBit_out (b : Bool) (s : State) : (State.takeCodeBit b s).out = s.out := rfl
@[simp] theorem State.takeCodeBit_ghost (b : Bool) (s : State) : (State.takeCodeBit b s).ghost = s.ghost := rfl
@[simp] theorem State.takeCodeBit_par (b : Bool) (s : State) : (State.takeCodeBit b s).par = s.par := rfl
@[simp] theorem State.takeCodeBit_inbox (b : Bool) (s : State) : (State.takeCodeBit b s).inbox = s.inbox := rfl
@[simp] theorem State.takeCodeBit_reply (b : Bool) (s : State) : (State.takeCodeBit b s).reply = s.reply := rfl
@[simp] theorem State.takeCodeBit_drawKey (b : Bool) (s : State) : (State.takeCodeBit b s).drawKey = s.drawKey := rfl

/-! ## State.placeTxn -/

@[simp] theorem State.placeTxn_cmdBrc (t : Txn) (s : State) : (State.placeTxn t s).cmdBrc = s.cmdBrc := rfl
@[simp] theorem State.placeTxn_bitCount (t : Txn) (s : State) : (State.placeTxn t s).bitCount = s.bitCount := rfl
@[simp] theorem State.placeTxn_nout (t : Txn) (s : State) : (State.placeTxn t s).nout = s.nout := rfl
@[simp] theorem State.placeTxn_busy (t : Txn) (s : State) : (State.placeTxn t s).busy = s.busy := rfl
@[simp] theorem State.placeTxn_done (t : Txn) (s : State) : (State.placeTxn t s).done = s.done := rfl
@[simp] theorem State.placeTxn_complete (t : Txn) (s : State) : (State.placeTxn t s).complete = s.complete := rfl
@[simp] theorem State.placeTxn_err (t : Txn) (s : State) : (State.placeTxn t s).err = s.err := rfl
@[simp] theorem State.placeTxn_stBrc (t : Txn) (s : State) : (State.placeTxn t s).stBrc = s.stBrc := rfl
@[simp] theorem State.placeTxn_cursor (t : Txn) (s : State) : (State.placeTxn t s).cursor = s.cursor := rfl
@[simp] theorem State.placeTxn_samples (t : Txn) (s : State) : (State.placeTxn t s).samples = s.samples := rfl
@[simp] theorem State.placeTxn_phase (t : Txn) (s : State) : (State.placeTxn t s).phase = s.phase := rfl
@[simp] theorem State.placeTxn_signl (t : Txn) (s : State) : (State.placeTxn t s).signl = s.signl := rfl
@[simp] theorem State.placeTxn_acc (t : Txn) (s : State) : (State.placeTxn t s).acc = s.acc := rfl
@[simp] theorem State.placeTxn_len (t : Txn) (s : State) : (State.placeTxn t s).len = s.len := rfl
@[simp] theorem State.placeTxn_bits (t : Txn) (s : State) : (State.placeTxn t s).bits = s.bits := rfl
@[simp] theorem State.placeTxn_out (t : Txn) (s : State) : (State.placeTxn t s).out = s.out := rfl
@[simp] theorem State.placeTxn_ghost (t : Txn) (s : State) : (State.placeTxn t s).ghost = s.ghost := rfl
@[simp] theorem State.placeTxn_par (t : Txn) (s : State) : (State.placeTxn t s).par = s.par := rfl
@[simp] theorem State.placeTxn_inbox (t : Txn) (s : State) : (State.placeTxn t s).inbox = .txn t :: s.inbox := rfl
@[simp] theorem State.placeTxn_reply (t : Txn) (s : State) : (State.placeTxn t s).reply = s.reply := rfl
@[simp] theorem State.placeTxn_drawKey (t : Txn) (s : State) : (State.placeTxn t s).drawKey = s.drawKey := rfl

/-! ## State.applyReset -/

@[simp] theorem State.applyReset_cmdBrc (s : State) : (State.applyReset s).cmdBrc = 0 := rfl
@[simp] theorem State.applyReset_bitCount (s : State) : (State.applyReset s).bitCount = 0 := rfl
@[simp] theorem State.applyReset_nout (s : State) : (State.applyReset s).nout = 0 := rfl
@[simp] theorem State.applyReset_busy (s : State) : (State.applyReset s).busy = false := rfl
@[simp] theorem State.applyReset_done (s : State) : (State.applyReset s).done = false := rfl
@[simp] theorem State.applyReset_complete (s : State) : (State.applyReset s).complete = false := rfl
@[simp] theorem State.applyReset_err (s : State) : (State.applyReset s).err = .noError := rfl
@[simp] theorem State.applyReset_stBrc (s : State) : (State.applyReset s).stBrc = 0 := rfl
@[simp] theorem State.applyReset_cursor (s : State) : (State.applyReset s).cursor = 0 := rfl
@[simp] theorem State.applyReset_samples (s : State) : (State.applyReset s).samples = 0 := rfl
@[simp] theorem State.applyReset_phase (s : State) : (State.applyReset s).phase = .idle := rfl
@[simp] theorem State.applyReset_signl (s : State) : (State.applyReset s).signl = false := rfl
@[simp] theorem State.applyReset_acc (s : State) : (State.applyReset s).acc = 0 := rfl
@[simp] theorem State.applyReset_len (s : State) : (State.applyReset s).len = 0 := rfl
@[simp] theorem State.applyReset_bits (s : State) : (State.applyReset s).bits = [] := rfl
@[simp] theorem State.applyReset_out (s : State) : (State.applyReset s).out = [] := rfl
@[simp] theorem State.applyReset_ghost (s : State) : (State.applyReset s).ghost =
    if s.busy then s.ghost ++ [⟨s.stBrc, s.bitCount, s.nout, .byReset⟩] else s.ghost :=
  rfl
@[simp] theorem State.applyReset_par (s : State) : (State.applyReset s).par = s.par := rfl
@[simp] theorem State.applyReset_inbox (s : State) : (State.applyReset s).inbox = s.inbox := rfl
@[simp] theorem State.applyReset_reply (s : State) : (State.applyReset s).reply = s.reply := rfl
@[simp] theorem State.applyReset_drawKey (s : State) : (State.applyReset s).drawKey = s.drawKey := rfl

end Sys2Proof.Machine
end

