-- ==== Sys2Proof/Laws/Ops.lean ====
section
/-! SUPPORT. One lemma per shared operation that says everything it can do, for proofs to cite instead of unfolding the
operation. -/

namespace Sys2Proof.Machine

/-- The state that `commit` answers. -/
theorem commit_next {s t : State} (h : State.commit s = .next t) : t = { s with drawKey := s.drawKey + 1 } :=
  (Host.Outcome.next.inj h).symm

theorem answer_next {s t : State} {v : Nat} (h : State.answer v s = .next t) : t = { s with reply := some v } :=
  (Host.Outcome.next.inj h).symm

/-- `ReadBit` gives a bit exactly below BITBUF_LEN: 1 for a nonzero element (20_memory.md R53). -/
theorem readBit_eq_some {s : State} {i : Nat} {b : Bool} :
    s.readBit i = some b ↔ i < s.par.bitbufLen ∧ b = decide (s.readBits i ≠ 0) := by
  unfold State.readBit
  split_ifs with h
  · simp; omega
  · simp only [Option.some.injEq]
    exact ⟨fun h' => ⟨by omega, h'.symm⟩, fun h' => h'.2.symm⟩

theorem readBit_eq_none {s : State} {i : Nat} : s.readBit i = none ↔ s.par.bitbufLen ≤ i := by
  unfold State.readBit
  split_ifs with h <;> simp <;> omega

/-- A written element reads as its value (20_memory.md R52). -/
theorem readBits_of_read? {s : State} {i v : Nat} (h : Mem.read? s.bits i = some v) : s.readBits i = v := by
  simp [State.readBits, h]

theorem readOut_of_read? {s : State} {j v : Nat} (h : Mem.read? s.out j = some v) : s.readOut j = v := by
  simp [State.readOut, h]

/-- START ends in one of three ways (40_decode_operation.md R91, 60_exceptions.md R215). -/
theorem start_cases (b : BrcField) (s : State) :
    (4 < b.toNat ∧ State.start b s = State.raiseError .brcInvalid (State.latch b s)) ∨
    (b.toNat ≤ 4 ∧ (s.par.bitbufLen < s.bitCount ∨ s.par.outCap < s.nout) ∧
      State.start b s = State.raiseError .range (State.latch b s)) ∨
    (b.toNat ≤ 4 ∧ s.bitCount ≤ s.par.bitbufLen ∧ s.nout ≤ s.par.outCap ∧
      State.start b s = { State.latch b s with busy := true, phase := .sign }) := by
  unfold State.start
  split_ifs with h1 h2
  · exact .inl ⟨h1, rfl⟩
  · exact .inr (.inl ⟨by omega, h2, rfl⟩)
  · exact .inr (.inr ⟨by omega, by omega, by omega, rfl⟩)

/-- A write of CMD is dropped while busy, and otherwise a START or CMD.SET (42_host_interface.md R191, R192). -/
theorem writeCmd_next {st : Bool} {b : BrcField} {s t : State} (h : State.writeCmd st b s = .next t) :
    (s.busy = true ∧ t = s) ∨
    (s.busy = false ∧ st = true ∧ t = { State.start b s with drawKey := (State.start b s).drawKey + 1 }) ∨
    (s.busy = false ∧ st = false ∧ t = { s with cmdBrc := b, drawKey := s.drawKey + 1 }) := by
  unfold State.writeCmd at h
  split_ifs at h with hb hs
  · exact .inl ⟨hb, (Host.Outcome.next.inj h).symm⟩
  · exact .inr (.inl ⟨by simpa using hb, hs, commit_next h⟩)
  · exact .inr (.inr ⟨by simpa using hb, by simpa using hs, commit_next h⟩)

/-- A register write that answers a next state is a write of CMD, of a count, or has no effect (42_host_interface.md
R191). -/
theorem writeReg_next {n v : Nat} {s t : State} (h : State.writeReg n v s = .next t) :
    regValueFits s.par n v = true ∧
    ((n = 0 ∧ State.writeCmd ((BitVec.ofNat 32 v).getLsbD 31) ((BitVec.ofNat 32 v).extractLsb' 0 3) s = .next t) ∨
     (n = 1 ∧ s.busy = false ∧ t = { s with bitCount := v, drawKey := s.drawKey + 1 }) ∨
     (n = 2 ∧ s.busy = false ∧ t = { s with nout := v, drawKey := s.drawKey + 1 }) ∨
     ((s.busy = true ∨ 3 ≤ n) ∧ t = s)) := by
  unfold State.writeReg at h
  by_cases hf : regValueFits s.par n v = true
  · rw [if_pos hf] at h
    refine ⟨hf, ?_⟩
    match n, h with
    | 0, h => exact .inl ⟨rfl, h⟩
    | 1, h =>
      by_cases hb : s.busy = true
      · exact .inr (.inr (.inr ⟨.inl hb, by simpa [hb] using h.symm⟩))
      · exact .inr (.inl ⟨rfl, by simpa using hb, commit_next ((if_neg hb).symm.trans h)⟩)
    | 2, h =>
      by_cases hb : s.busy = true
      · exact .inr (.inr (.inr ⟨.inl hb, by simpa [hb] using h.symm⟩))
      · exact .inr (.inr (.inl ⟨rfl, by simpa using hb, commit_next ((if_neg hb).symm.trans h)⟩))
    | n + 3, h => exact .inr (.inr (.inr ⟨.inr (by omega), (Host.Outcome.next.inj h).symm⟩))
  · rw [if_neg hf] at h
    cases h

/-- `MemWrite` of a sample (20_memory.md R55, 40_decode_operation.md R94). -/
theorem writeSample_next {v : Nat} {s t : State} (h : State.writeSample v s = .next t) :
    s.samples < s.par.outCap ∧
    t = { s with out := Mem.write s.out s.samples v, samples := s.samples + 1, phase := .sign,
                 drawKey := s.drawKey + 1 } := by
  unfold State.writeSample at h
  split_ifs at h with hj
  exact ⟨hj, commit_next h⟩

/-- The code word that the next code-bit step completes: what its being there says (41_code_tables.md R175). -/
theorem nextCodeWord_some {s : State} {i : Instr} (h : s.nextCodeWord = some i) :
    s.busy = true ∧ s.phase = .code ∧ s.exhausted = false ∧
    ∃ lv b m, Level.ofField s.stBrc = some lv ∧ s.readBit s.cursor = some b ∧
      matchCode lv s.nextLen.toNat (s.nextAcc b).toNat = some m ∧ codeInstr lv m s.signl = some i := by
  unfold State.nextCodeWord at h
  split_ifs at h with hg
  simp only [Bool.and_eq_true, decide_eq_true_eq, Bool.not_eq_true'] at hg
  refine ⟨hg.1.1, hg.1.2, hg.2, ?_⟩
  split at h
  · cases h
  · rename_i b hb
    split at h
    · cases h
    · rename_i lv hlv
      split at h
      · cases h
      · rename_i m hm
        exact ⟨lv, b, m, hlv, hb, hm, h⟩

/-- The code-bit step that completes a code word: where it answers a next state, the matcher recognises the instruction,
the bit is taken and the output value written. -/
theorem completeCode_next {i : Instr} {lv : Level} {m : Nat} {sign : Bool} {s t : State}
    (h : State.completeCode i lv m sign s = .next t) :
    s.nextCodeWord = some i ∧ ∃ b, s.readBit s.cursor = some b ∧
      State.writeSample (outValue lv m sign) (State.takeCodeBit b s) = .next t := by
  unfold State.completeCode at h
  split_ifs at h with hi
  refine ⟨hi, ?_⟩
  split at h
  · cases h
  · rename_i b hb
    exact ⟨b, hb, h⟩

/-- A code-word row runs `completeCode` with its own level, magnitude and sign. -/
theorem exec_of_codeWord {i : Instr} {lv : Level} {m : Nat} {sign : Bool} (h : i.codeWord = some (lv, m, sign))
    (s : State) : exec i s = State.completeCode i lv m sign s := by
  cases i <;> simp only [Instr.codeWord, Option.some.injEq, Prod.mk.injEq, reduceCtorEq] at h <;>
    (obtain ⟨rfl, rfl, rfl⟩ := h; rfl)

/-- The sample-start step finishes, raises OVERRUN, or reads a sign bit (40_decode_operation.md R93). -/
theorem signStep_next {s t : State} (h : s.signStep = .next t) :
    (s.sampleStop = true ∧
      t = { State.finish (decide (s.samples = s.nout)) s with drawKey := s.drawKey + 1 }) ∨
    (s.sampleStop = false ∧ s.readBit s.cursor = none ∧
      t = { State.raiseError .overrun s with drawKey := s.drawKey + 1 }) ∨
    (s.sampleStop = false ∧ ∃ b, s.readBit s.cursor = some b ∧
      t = { s with cursor := s.cursor + 1, signl := b, acc := 0, len := 0, phase := .code,
                   drawKey := s.drawKey + 1 }) := by
  unfold State.signStep at h
  split_ifs at h with hs
  · exact .inl ⟨hs, commit_next h⟩
  · have hs' : s.sampleStop = false := by simpa using hs
    split at h
    · rename_i hr
      exact .inr (.inl ⟨hs', hr, commit_next h⟩)
    · rename_i b hr
      exact .inr (.inr ⟨hs', b, hr, commit_next h⟩)

/-- The code-bit step finishes, raises OVERRUN, moves to an internal node, or completes a code word
(40_decode_operation.md R94). -/
theorem codeBitStep_next {s t : State} (h : s.codeBitStep = .next t) :
    (s.exhausted = true ∧ t = { State.finish false s with drawKey := s.drawKey + 1 }) ∨
    (s.exhausted = false ∧ s.readBit s.cursor = none ∧
      t = { State.raiseError .overrun s with drawKey := s.drawKey + 1 }) ∨
    (s.exhausted = false ∧ ∃ b lv, s.readBit s.cursor = some b ∧ Level.ofField s.stBrc = some lv ∧
      ((matchCode lv s.nextLen.toNat (s.nextAcc b).toNat = none ∧
          t = { State.takeCodeBit b s with drawKey := s.drawKey + 1 }) ∨
       ∃ m, matchCode lv s.nextLen.toNat (s.nextAcc b).toNat = some m ∧
          State.writeSample (outValue lv m s.signl) (State.takeCodeBit b s) = .next t)) := by
  unfold State.codeBitStep at h
  split_ifs at h with he
  · exact .inl ⟨he, commit_next h⟩
  · have he' : s.exhausted = false := by simpa using he
    split at h
    · rename_i hr
      exact .inr (.inl ⟨he', hr, commit_next h⟩)
    · rename_i b hr
      refine .inr (.inr ⟨he', ?_⟩)
      split at h
      · cases h
      · rename_i lv hlv
        refine ⟨b, lv, hr, hlv, ?_⟩
        split at h
        · rename_i hm
          exact .inl ⟨hm, commit_next h⟩
        · rename_i m hm
          exact .inr ⟨m, hm, h⟩

/-- ACC and LEN of a walk below LMAX do not wrap: the next node is (LEN + 1, 2·ACC + b) (40_decode_operation.md R110,
41_code_tables.md R177). -/
theorem nextLen_toNat {s : State} (h : s.len.toNat < 9) : s.nextLen.toNat = s.len.toNat + 1 := by
  have h1 : (1 : BitVec 4).toNat = 1 := rfl
  simp only [State.nextLen, BitVec.toNat_add, h1]
  omega

theorem nextAcc_toNat {s : State} (h : s.acc.toNat < 256) (b : Bool) :
    (s.nextAcc b).toNat = 2 * s.acc.toNat + b.toNat := by
  have key : ∀ a : BitVec 9, a.toNat < 256 → ∀ b : Bool,
      ((a <<< 1) ||| (BitVec.ofBool b).setWidth 9).toNat = 2 * a.toNat + b.toNat := by decide
  exact key s.acc h b

/-- An output value is below 2·K, so at most 31 (30_encoding.md R76, 41_code_tables.md R172). -/
theorem outValue_le {lv : Level} {m : Nat} (h : m < lv.alphabet) (sign : Bool) : outValue lv m sign ≤ 31 := by
  cases lv <;> cases sign <;> simp [outValue, Level.alphabet] at * <;> omega

end Sys2Proof.Machine
end

