-- ==== Sys2Proof/Laws/Exec.lean ====
section
/-! SUPPORT. What an instruction, a DEC step and a step of the machine can do, said once: every proof over all
instructions or all steps is a case analysis of these lemmas. -/

namespace Sys2Proof.Machine

/-- Everything that one instruction can do to a state. -/
inductive Effect (s : State) : State → Prop where
  /-- No effect: a write dropped while busy, or a write of a read-only or unimplemented register. -/
  | same : Effect s s
  /-- A host read. -/
  | reply (v : Nat) : Effect s { s with reply := some v }
  /-- CMD.SET. -/
  | setBrc (b : BrcField) (idle : s.busy = false) : Effect s { s with cmdBrc := b, drawKey := s.drawKey + 1 }
  /-- A write of BIT_COUNT. -/
  | setBitCount (v : Nat) (idle : s.busy = false) (fits : Fits s.par.wCnt v) :
      Effect s { s with bitCount := v, drawKey := s.drawKey + 1 }
  /-- A write of NOUT. -/
  | setNout (v : Nat) (idle : s.busy = false) (fits : Fits s.par.wCnt v) :
      Effect s { s with nout := v, drawKey := s.drawKey + 1 }
  /-- A write of a BITS element. -/
  | writeBits (i v : Nat) (idle : s.busy = false) (index : i < s.par.bitbufLen) (fits : Fits s.par.elemW v) :
      Effect s { s with bits := Mem.write s.bits i v, drawKey := s.drawKey + 1 }
  /-- A write of an OUT element by the host. -/
  | writeOut (j v : Nat) (idle : s.busy = false) (index : j < s.par.outCap) (fits : Fits s.par.outW v) :
      Effect s { s with out := Mem.write s.out j v, drawKey := s.drawKey + 1 }
  /-- START. -/
  | start (b : BrcField) (idle : s.busy = false) :
      Effect s { State.start b s with drawKey := (State.start b s).drawKey + 1 }
  /-- A code word that the matcher recognises. -/
  | code (i : Instr) (lv : Level) (b : Bool) (m : Nat) (next : s.nextCodeWord = some i)
      (level : Level.ofField s.stBrc = some lv) (bit : s.readBit s.cursor = some b)
      (leaf : matchCode lv s.nextLen.toNat (s.nextAcc b).toNat = some m) (room : s.samples < s.par.outCap) :
      Effect s
        { State.takeCodeBit b s with
          out := Mem.write s.out s.samples (outValue lv m s.signl), samples := s.samples + 1, phase := .sign,
          drawKey := s.drawKey + 1 }

theorem effect_of_writeCmd {st : Bool} {b : BrcField} {s t : State} (h : State.writeCmd st b s = .next t) :
    Effect s t := by
  rcases writeCmd_next h with ⟨-, rfl⟩ | ⟨hi, -, rfl⟩ | ⟨hi, -, rfl⟩
  · exact .same
  · exact .start b hi
  · exact .setBrc b hi

theorem effect_of_writeReg {n v : Nat} {s t : State} (h : State.writeReg n v s = .next t) : Effect s t := by
  obtain ⟨hf, ⟨-, h⟩ | ⟨rfl, hi, rfl⟩ | ⟨rfl, hi, rfl⟩ | ⟨-, rfl⟩⟩ := writeReg_next h
  · exact effect_of_writeCmd h
  · exact .setBitCount v hi (by simpa [regValueFits] using hf)
  · exact .setNout v hi (by simpa [regValueFits] using hf)
  · exact .same

theorem effect_of_execBwr {i v : Nat} {s t : State} (h : execBwr i v s = .next t) : Effect s t := by
  unfold execBwr at h
  by_cases hi : i < s.par.bitbufLen
  · rw [if_pos hi] at h
    by_cases hv : Fits s.par.elemW v
    · rw [if_pos hv] at h
      by_cases hb : s.busy = true
      · rw [if_pos hb] at h
        cases h
        exact .same
      · rw [if_neg hb] at h
        exact commit_next h ▸ .writeBits i v (by simpa using hb) hi hv
    · rw [if_neg hv] at h
      cases h
  · rw [if_neg hi] at h
    cases h

theorem effect_of_execOwr {j v : Nat} {s t : State} (h : execOwr j v s = .next t) : Effect s t := by
  unfold execOwr at h
  by_cases hj : j < s.par.outCap
  · rw [if_pos hj] at h
    by_cases hv : Fits s.par.outW v
    · rw [if_pos hv] at h
      by_cases hb : s.busy = true
      · rw [if_pos hb] at h
        cases h
        exact .same
      · rw [if_neg hb] at h
        exact commit_next h ▸ .writeOut j v (by simpa using hb) hj hv
    · rw [if_neg hv] at h
      cases h
  · rw [if_neg hj] at h
    cases h

theorem effect_of_execBrd {i : Nat} {s t : State} (h : execBrd i s = .next t) : Effect s t := by
  unfold execBrd at h
  split_ifs at h
  exact answer_next h ▸ .reply _

theorem effect_of_execOrd {j : Nat} {s t : State} (h : execOrd j s = .next t) : Effect s t := by
  unfold execOrd at h
  split_ifs at h
  exact answer_next h ▸ .reply _

theorem effect_of_completeCode {i : Instr} {lv : Level} {m : Nat} {sign : Bool} {s t : State}
    (hc : i.codeWord = some (lv, m, sign)) (h : State.completeCode i lv m sign s = .next t) : Effect s t := by
  obtain ⟨hi, b, hb, hw⟩ := completeCode_next h
  obtain ⟨-, -, -, lv', b', m', hlv, hb', hm, hrow⟩ := nextCodeWord_some hi
  obtain ⟨rfl, rfl, rfl⟩ : lv = lv' ∧ m = m' ∧ sign = s.signl := by
    have := codeWord_of_codeInstr hrow
    rw [hc] at this
    simpa using this
  obtain rfl : b = b' := by simpa [hb] using hb'
  obtain ⟨hroom, rfl⟩ := writeSample_next hw
  exact .code i lv b m hi hlv hb hm hroom

/-- Whatever instruction runs, its next state is one of the effects. -/
theorem exec_effect {i : Instr} {s t : State} (h : exec i s = .next t) : Effect s t := by
  rcases hc : i.codeWord with _ | ⟨lv, m, sign⟩
  · cases i <;> first
      | exact effect_of_writeCmd h
      | exact effect_of_writeReg h
      | exact answer_next h ▸ .reply _
      | exact effect_of_execBwr h
      | exact effect_of_execBrd h
      | exact effect_of_execOwr h
      | exact effect_of_execOrd h
      | cases hc
  · exact effect_of_completeCode hc (exec_of_codeWord hc s ▸ h)

/-- In PHASE = CODE, running the code word that the matcher gives is the code-bit step of 40_decode_operation.md R94. -/
theorem decStep_of_code {s : State} (hb : s.busy = true) (hp : s.phase = .code) : s.decStep = s.codeBitStep := by
  unfold State.decStep
  rw [if_pos hb, hp]
  show (match s.nextCodeWord with
    | some i => exec i s
    | none => s.codeBitStep) = s.codeBitStep
  split
  · rename_i i hi
    obtain ⟨-, -, he, lv, b, m, hlv, hbit, hm, hrow⟩ := nextCodeWord_some hi
    simp only [exec_of_codeWord (codeWord_of_codeInstr hrow), State.completeCode, hi, if_true, hbit,
      State.codeBitStep, he, hlv, hm, Bool.false_eq_true, if_false]
  · rfl

theorem decStep_of_sign {s : State} (hb : s.busy = true) (hp : s.phase = .sign) : s.decStep = s.signStep := by
  simp [State.decStep, hb, hp]

theorem decStep_of_idle {s : State} (hb : s.busy = false) : s.decStep = .next s := by
  simp [State.decStep, hb]

/-- A DEC step that answers a next state: none while idle, a sample start, or a code bit (40_decode_operation.md R92). -/
theorem decStep_next {s t : State} (h : s.decStep = .next t) :
    (s.busy = false ∧ t = s) ∨
    (s.busy = true ∧ s.phase = .sign ∧ s.signStep = .next t) ∨
    (s.busy = true ∧ s.phase = .code ∧ s.codeBitStep = .next t) := by
  rcases hb : s.busy with _ | _
  · exact .inl ⟨rfl, by simpa [decStep_of_idle hb] using h.symm⟩
  · rcases hp : s.phase with _ | _ | _
    · simp [State.decStep, hb, hp] at h
    · exact .inr (.inl ⟨rfl, rfl, decStep_of_sign hb hp ▸ h⟩)
    · exact .inr (.inr ⟨rfl, rfl, decStep_of_code hb hp ▸ h⟩)

/-- A step is a DEC step, or one pending event in the state without it. -/
theorem step_next {s t : State} (h : step s = .next t) :
    (s.inbox = [] ∧ s.decStep = .next t) ∨
    ∃ rest, (∃ x, s.inbox = .txn x :: rest ∧ exec (decodeTxn x) { s with inbox := rest } = .next t) ∨
      (s.inbox = .dec :: rest ∧ State.decStep { s with inbox := rest } = .next t) ∨
      (s.inbox = .reset :: rest ∧
        t = { State.applyReset { s with inbox := rest } with drawKey := s.drawKey + 1 }) := by
  unfold step State.turn at h
  split at h
  · rename_i hin
    exact .inl ⟨hin, h⟩
  · rename_i e rest hin
    refine .inr ⟨rest, ?_⟩
    cases e with
    | txn x => exact .inl ⟨x, hin, h⟩
    | dec => exact .inr (.inl ⟨hin, h⟩)
    | reset => exact .inr (.inr ⟨hin, commit_next h⟩)

/-! ## Runs -/

@[simp] theorem run_zero (s : State) : Host.Core.run core 0 s = .next s := rfl

/-- A run whose first step is known. -/
theorem run_succ_of_next {k : Nat} {s s' : State} (h : step s = .next s') :
    Host.Core.run core (k + 1) s = Host.Core.run core k s' := by
  have e := Host.Core.run.eq_2 core s k
  have hc : core.step s = .next s' := h
  rw [hc] at e
  exact e

/-- A run that answers a next state begins with a step that does. -/
theorem run_succ_next {k : Nat} {s t : State} (h : Host.Core.run core (k + 1) s = .next t) :
    ∃ s' : State, step s = .next s' ∧ Host.Core.run core k s' = .next t := by
  have e := Host.Core.run.eq_2 core s k
  rcases hs : step s with s' | f | r
  · exact ⟨s', rfl, run_succ_of_next hs ▸ h⟩
  · have hc : core.step s = .fault f := hs
    rw [hc] at e
    cases e.symm.trans h
  · have hc : core.step s = .refused r := hs
    rw [hc] at e
    cases e.symm.trans h

/-- A run goes on from where its first part leads. -/
theorem run_add {j k : Nat} {s t : State} (h : Host.Core.run core j s = .next t) :
    Host.Core.run core (j + k) s = Host.Core.run core k t := by
  induction j generalizing s with
  | zero =>
    cases h
    rw [Nat.zero_add]
  | succ j ih =>
    obtain ⟨s', hs, hr⟩ := run_succ_next h
    rw [Nat.succ_add, run_succ_of_next hs]
    exact ih hr

end Sys2Proof.Machine
end

