-- ==== Sys2Proof/Laws/PerInstr.lean ====
section
/-! SUPPORT. For every instruction: its encoding is the one that spec/opcode_table.json lists for its row (30_encoding.md
R75, R84, R85). -/

namespace Sys2Proof.Laws.TableMatch

/-- What the opcode table says of a row's encoding: a host transaction, or a number of `length` bits that equals `value`
under `mask`. -/
inductive Row where
  | host (t : Txn)
  | bits (length value mask : Nat)

/-- The `length`, `match` and `mask` of each row of spec/opcode_table.json. -/
def row : Instr → Row
  | .decodeBrc0 => .bits 32 2147483648 2147483655
  | .decodeBrc1 => .bits 32 2147483649 2147483655
  | .decodeBrc2 => .bits 32 2147483650 2147483655
  | .decodeBrc3 => .bits 32 2147483651 2147483655
  | .decodeBrc4 => .bits 32 2147483652 2147483655
  | .decodeBrc5 => .bits 32 2147483653 2147483655
  | .decodeBrc6 => .bits 32 2147483654 2147483655
  | .decodeBrc7 => .bits 32 2147483655 2147483655
  | .cmdSet _ => .bits 32 0 2147483648
  | .hwr n v => .host (.hwr n v)
  | .hrd n => .host (.hrd n)
  | .bwr i v => .host (.bwr i v)
  | .brd i => .host (.brd i)
  | .owr j v => .host (.owr j v)
  | .ord j => .host (.ord j)
  | .cwBrc0M0 _ => .bits 2 0 1
  | .cwBrc0M1 _ => .bits 3 2 3
  | .cwBrc0M2 _ => .bits 4 6 7
  | .cwBrc0M3 _ => .bits 4 7 7
  | .cwBrc1M0 _ => .bits 2 0 1
  | .cwBrc1M1 _ => .bits 3 2 3
  | .cwBrc1M2 _ => .bits 4 6 7
  | .cwBrc1M3 _ => .bits 5 14 15
  | .cwBrc1M4 _ => .bits 5 15 15
  | .cwBrc2M0 _ => .bits 2 0 1
  | .cwBrc2M1 _ => .bits 3 2 3
  | .cwBrc2M2 _ => .bits 4 6 7
  | .cwBrc2M3 _ => .bits 5 14 15
  | .cwBrc2M4 _ => .bits 6 30 31
  | .cwBrc2M5 _ => .bits 7 62 63
  | .cwBrc2M6 _ => .bits 7 63 63
  | .cwBrc3M0 _ => .bits 3 0 3
  | .cwBrc3M1 _ => .bits 3 1 3
  | .cwBrc3M2 _ => .bits 3 2 3
  | .cwBrc3M3 _ => .bits 4 6 7
  | .cwBrc3M4 _ => .bits 5 14 15
  | .cwBrc3M5 _ => .bits 6 30 31
  | .cwBrc3M6 _ => .bits 7 62 63
  | .cwBrc3M7 _ => .bits 8 126 127
  | .cwBrc3M8 _ => .bits 9 254 255
  | .cwBrc3M9 _ => .bits 9 255 255
  | .cwBrc4M0 _ => .bits 3 0 3
  | .cwBrc4M1 _ => .bits 4 2 7
  | .cwBrc4M2 _ => .bits 4 3 7
  | .cwBrc4M3 _ => .bits 4 4 7
  | .cwBrc4M4 _ => .bits 4 5 7
  | .cwBrc4M5 _ => .bits 5 12 15
  | .cwBrc4M6 _ => .bits 5 13 15
  | .cwBrc4M7 _ => .bits 5 14 15
  | .cwBrc4M8 _ => .bits 6 30 31
  | .cwBrc4M9 _ => .bits 7 62 63
  | .cwBrc4M10 _ => .bits 9 252 255
  | .cwBrc4M11 _ => .bits 9 253 255
  | .cwBrc4M12 _ => .bits 10 508 511
  | .cwBrc4M13 _ => .bits 10 509 511
  | .cwBrc4M14 _ => .bits 10 510 511
  | .cwBrc4M15 _ => .bits 10 511 511

/-- An encoding as a number with its length: a command word, or the bits of a symbol with the first-read bit the most
significant (30_encoding.md R75). -/
def number : Encoded → Option (Nat × Nat)
  | .txn (.hwr 0 w) => some (32, w)
  | .txn _ => none
  | .symbol _ bits => some (bits.length, val bits)

/-- The encoding of the instruction is its row's. -/
def Statement (i : Instr) : Prop :=
  match row i with
  | .host t => encode i = .txn t
  | .bits length value mask => ∃ w, number (encode i) = some (length, w) ∧ w &&& mask = value

theorem decodeBrc0 : Statement .decodeBrc0 := ⟨_, rfl, rfl⟩
theorem decodeBrc1 : Statement .decodeBrc1 := ⟨_, rfl, rfl⟩
theorem decodeBrc2 : Statement .decodeBrc2 := ⟨_, rfl, rfl⟩
theorem decodeBrc3 : Statement .decodeBrc3 := ⟨_, rfl, rfl⟩
theorem decodeBrc4 : Statement .decodeBrc4 := ⟨_, rfl, rfl⟩
theorem decodeBrc5 : Statement .decodeBrc5 := ⟨_, rfl, rfl⟩
theorem decodeBrc6 : Statement .decodeBrc6 := ⟨_, rfl, rfl⟩
theorem decodeBrc7 : Statement .decodeBrc7 := ⟨_, rfl, rfl⟩
theorem cmdSet (brc : BrcField) : Statement (.cmdSet brc) :=
  ⟨brc.toNat, rfl, by revert brc; decide⟩
theorem hwr (n v : Nat) : Statement (.hwr n v) := rfl
theorem hrd (n : Nat) : Statement (.hrd n) := rfl
theorem bwr (i v : Nat) : Statement (.bwr i v) := rfl
theorem brd (i : Nat) : Statement (.brd i) := rfl
theorem owr (j v : Nat) : Statement (.owr j v) := rfl
theorem ord (j : Nat) : Statement (.ord j) := rfl
theorem cwBrc0M0 (sign : Bool) : Statement (.cwBrc0M0 sign) := ⟨_, rfl, by cases sign <;> rfl⟩
theorem cwBrc0M1 (sign : Bool) : Statement (.cwBrc0M1 sign) := ⟨_, rfl, by cases sign <;> rfl⟩
theorem cwBrc0M2 (sign : Bool) : Statement (.cwBrc0M2 sign) := ⟨_, rfl, by cases sign <;> rfl⟩
theorem cwBrc0M3 (sign : Bool) : Statement (.cwBrc0M3 sign) := ⟨_, rfl, by cases sign <;> rfl⟩
theorem cwBrc1M0 (sign : Bool) : Statement (.cwBrc1M0 sign) := ⟨_, rfl, by cases sign <;> rfl⟩
theorem cwBrc1M1 (sign : Bool) : Statement (.cwBrc1M1 sign) := ⟨_, rfl, by cases sign <;> rfl⟩
theorem cwBrc1M2 (sign : Bool) : Statement (.cwBrc1M2 sign) := ⟨_, rfl, by cases sign <;> rfl⟩
theorem cwBrc1M3 (sign : Bool) : Statement (.cwBrc1M3 sign) := ⟨_, rfl, by cases sign <;> rfl⟩
theorem cwBrc1M4 (sign : Bool) : Statement (.cwBrc1M4 sign) := ⟨_, rfl, by cases sign <;> rfl⟩
theorem cwBrc2M0 (sign : Bool) : Statement (.cwBrc2M0 sign) := ⟨_, rfl, by cases sign <;> rfl⟩
theorem cwBrc2M1 (sign : Bool) : Statement (.cwBrc2M1 sign) := ⟨_, rfl, by cases sign <;> rfl⟩
theorem cwBrc2M2 (sign : Bool) : Statement (.cwBrc2M2 sign) := ⟨_, rfl, by cases sign <;> rfl⟩
theorem cwBrc2M3 (sign : Bool) : Statement (.cwBrc2M3 sign) := ⟨_, rfl, by cases sign <;> rfl⟩
theorem cwBrc2M4 (sign : Bool) : Statement (.cwBrc2M4 sign) := ⟨_, rfl, by cases sign <;> rfl⟩
theorem cwBrc2M5 (sign : Bool) : Statement (.cwBrc2M5 sign) := ⟨_, rfl, by cases sign <;> rfl⟩
theorem cwBrc2M6 (sign : Bool) : Statement (.cwBrc2M6 sign) := ⟨_, rfl, by cases sign <;> rfl⟩
theorem cwBrc3M0 (sign : Bool) : Statement (.cwBrc3M0 sign) := ⟨_, rfl, by cases sign <;> rfl⟩
theorem cwBrc3M1 (sign : Bool) : Statement (.cwBrc3M1 sign) := ⟨_, rfl, by cases sign <;> rfl⟩
theorem cwBrc3M2 (sign : Bool) : Statement (.cwBrc3M2 sign) := ⟨_, rfl, by cases sign <;> rfl⟩
theorem cwBrc3M3 (sign : Bool) : Statement (.cwBrc3M3 sign) := ⟨_, rfl, by cases sign <;> rfl⟩
theorem cwBrc3M4 (sign : Bool) : Statement (.cwBrc3M4 sign) := ⟨_, rfl, by cases sign <;> rfl⟩
theorem cwBrc3M5 (sign : Bool) : Statement (.cwBrc3M5 sign) := ⟨_, rfl, by cases sign <;> rfl⟩
theorem cwBrc3M6 (sign : Bool) : Statement (.cwBrc3M6 sign) := ⟨_, rfl, by cases sign <;> rfl⟩
theorem cwBrc3M7 (sign : Bool) : Statement (.cwBrc3M7 sign) := ⟨_, rfl, by cases sign <;> rfl⟩
theorem cwBrc3M8 (sign : Bool) : Statement (.cwBrc3M8 sign) := ⟨_, rfl, by cases sign <;> rfl⟩
theorem cwBrc3M9 (sign : Bool) : Statement (.cwBrc3M9 sign) := ⟨_, rfl, by cases sign <;> rfl⟩
theorem cwBrc4M0 (sign : Bool) : Statement (.cwBrc4M0 sign) := ⟨_, rfl, by cases sign <;> rfl⟩
theorem cwBrc4M1 (sign : Bool) : Statement (.cwBrc4M1 sign) := ⟨_, rfl, by cases sign <;> rfl⟩
theorem cwBrc4M2 (sign : Bool) : Statement (.cwBrc4M2 sign) := ⟨_, rfl, by cases sign <;> rfl⟩
theorem cwBrc4M3 (sign : Bool) : Statement (.cwBrc4M3 sign) := ⟨_, rfl, by cases sign <;> rfl⟩
theorem cwBrc4M4 (sign : Bool) : Statement (.cwBrc4M4 sign) := ⟨_, rfl, by cases sign <;> rfl⟩
theorem cwBrc4M5 (sign : Bool) : Statement (.cwBrc4M5 sign) := ⟨_, rfl, by cases sign <;> rfl⟩
theorem cwBrc4M6 (sign : Bool) : Statement (.cwBrc4M6 sign) := ⟨_, rfl, by cases sign <;> rfl⟩
theorem cwBrc4M7 (sign : Bool) : Statement (.cwBrc4M7 sign) := ⟨_, rfl, by cases sign <;> rfl⟩
theorem cwBrc4M8 (sign : Bool) : Statement (.cwBrc4M8 sign) := ⟨_, rfl, by cases sign <;> rfl⟩
theorem cwBrc4M9 (sign : Bool) : Statement (.cwBrc4M9 sign) := ⟨_, rfl, by cases sign <;> rfl⟩
theorem cwBrc4M10 (sign : Bool) : Statement (.cwBrc4M10 sign) := ⟨_, rfl, by cases sign <;> rfl⟩
theorem cwBrc4M11 (sign : Bool) : Statement (.cwBrc4M11 sign) := ⟨_, rfl, by cases sign <;> rfl⟩
theorem cwBrc4M12 (sign : Bool) : Statement (.cwBrc4M12 sign) := ⟨_, rfl, by cases sign <;> rfl⟩
theorem cwBrc4M13 (sign : Bool) : Statement (.cwBrc4M13 sign) := ⟨_, rfl, by cases sign <;> rfl⟩
theorem cwBrc4M14 (sign : Bool) : Statement (.cwBrc4M14 sign) := ⟨_, rfl, by cases sign <;> rfl⟩
theorem cwBrc4M15 (sign : Bool) : Statement (.cwBrc4M15 sign) := ⟨_, rfl, by cases sign <;> rfl⟩

end Sys2Proof.Laws.TableMatch
end

