-- ==== Sys2Proof/Laws/Safety.lean ====
section
/-! SUPPORT. The laws of the draws of a command: where two states have the same ones, and what bit a command reads at a
written element. -/

namespace Sys2Proof.Machine

/-- One key of the free values gives the same draws. -/
theorem sameDraws_of_drawKey {s t : State} (h : s.drawKey = t.drawKey) : State.SameDraws s t :=
  fun _ _ _ _ => by rw [h]

/-- Where every BITS element is written there is no draw to differ in. -/
theorem sameDraws_of_written {s t : State} (h : ∀ i < s.par.bitbufLen, Mem.read? s.bits i ≠ none) :
    State.SameDraws s t :=
  fun i hi hn => absurd hn (h i hi)

/-- States with the same draws still have the same draws after one write each. -/
theorem sameDraws_after_write {s t : State} (h : State.SameDraws s t) :
    State.SameDraws { s with drawKey := s.drawKey + 1 } { t with drawKey := t.drawKey + 1 } := fun i hi hn k => by
  simpa [Nat.add_assoc] using h i hi hn (1 + k)

/-- A command reads a written element as it stands (20_memory.md R53). -/
theorem commandBit_of_read? {s : State} {i v : Nat} (h : Mem.read? s.bits i = some v) :
    s.commandBit i = decide (v ≠ 0) := by
  unfold State.commandBit
  rw [readBits_of_read? (s := { s with drawKey := s.drawKey + i }) h]

end Sys2Proof.Machine
end

