-- ==== Sys2Proof/Machine/Pseudo.lean ====
section
/-! DEFINITION. The pseudo-instructions of 30_encoding.md R83, each as the pending transitions it expands into. -/

namespace Sys2Proof.Machine

/-- BLOAD i, [v0, ...]: successive BWR (30_encoding.md R83). -/
def bload (i : Nat) : List Nat → List Event
  | [] => []
  | v :: rest => .txn (.bwr i v) :: bload (i + 1) rest

/-- OFILL j, n, v: `n` successive OWR of one value (R83). -/
def ofill (j : Nat) : Nat → Nat → List Event
  | 0, _ => []
  | n + 1, v => .txn (.owr j v) :: ofill (j + 1) n v

/-- DECODE.BRC<b> a, n: BIT_COUNT, NOUT and the command word (R83). -/
def decodeCommand (b : BrcField) (a n : Nat) : List Event :=
  [.txn (.hwr 1 a), .txn (.hwr 2 n), .txn (.hwr 0 (0x80000000 ||| b.toNat))]

/-- WAIT (R83), as `k` polls of STATUS with one DEC step before each. WAIT ends at the first poll that reads DONE = 1;
how many polls that takes depends on the interleaving, so the number is the caller's (notes/assumptions/15.md). -/
def waitPolls : Nat → List Event
  | 0 => []
  | k + 1 => .dec :: .txn (.hrd 3) :: waitPolls k

end Sys2Proof.Machine
end

