-- ==== Sys2Proof/Tests/Slice0.lean ====
section
/-! SUPPORT. The model's own tests: ill-formed terms are refused, words written out from the spec decode, single steps
give what the spec's tables and vectors give, and every hypothesis of the obligations is met by a concrete state. -/

namespace Sys2Proof.Tests

open Sys2Proof.Machine

/-! ## Helpers -/

/-- A field of the next state. -/
def get? {α : Type} (f : State → α) : Out → Option α
  | .next s => some (f s)
  | .fault _ => none
  | .refused _ => none

/-- The reason of a refusal. -/
def refusal? : Out → Option Refusal
  | .next _ => none
  | .fault _ => none
  | .refused r => some r

/-- The reason of a fault. -/
def fault? : Out → Option Fault
  | .next _ => none
  | .fault f => some f
  | .refused _ => none

/-- The parameters of the tests in PER_BIT mode. -/
def perBitPar : Params := { Params.standard with boundCheck := .perBit }

/-- The bits of `code` in BITS from index `i` on. -/
def bitsFrom : Nat → List Bool → Mem
  | _, [] => []
  | i, b :: rest => (i, b.toNat) :: bitsFrom (i + 1) rest

/-- An idle state with both counts at the sizes of the memories. -/
def idleFull : State := { State.reset with bitCount := 64, nout := 32 }

/-- DEC at the start of a sample of a BRC0 command over `bits`. -/
def atSign (bits : List Bool) (nout : Nat) : State :=
  { State.reset with
    busy := true, phase := .sign, bitCount := bits.length, nout := nout, bits := bitsFrom 0 bits }

/-- DEC before the bit `last` of a symbol of level `lv`, with the sign bit and the code bits `pre` read. -/
def atCode (p : Params) (lv : Level) (sign : Bool) (pre : List Bool) (last : Bool) : State :=
  { State.resetOf p with
    busy := true, phase := .code, stBrc := lv.field, nout := 1, bitCount := pre.length + 2,
    cursor := pre.length + 1, signl := sign, acc := BitVec.ofNat 9 (val pre), len := BitVec.ofNat 4 pre.length,
    bits := bitsFrom 0 (sign :: (pre ++ [last])) }

/-! ## Ill-formed terms -/

theorem test_wf_hwr : Instr.WF Params.standard (.hwr 0 3) = false ∧
    Instr.WF Params.standard (.hwr 1 (2 ^ 32)) = false ∧ Instr.WF Params.standard (.hwr 2 (2 ^ 32)) = false ∧
    Instr.WF Params.standard (.hwr 1 (2 ^ 32 - 1)) = true ∧ Instr.WF Params.standard (.hwr 3 (2 ^ 32)) = true := by
  decide

theorem test_wf_bwr : Instr.WF Params.standard (.bwr 64 0) = false ∧
    Instr.WF Params.standard (.bwr 0 256) = false ∧ Instr.WF Params.standard (.bwr 63 255) = true := by decide

theorem test_wf_brd : Instr.WF Params.standard (.brd 64) = false ∧ Instr.WF Params.standard (.brd 63) = true := by
  decide

theorem test_wf_owr : Instr.WF Params.standard (.owr 32 0) = false ∧
    Instr.WF Params.standard (.owr 0 256) = false ∧ Instr.WF Params.standard (.owr 31 255) = true := by decide

theorem test_wf_ord : Instr.WF Params.standard (.ord 32) = false ∧ Instr.WF Params.standard (.ord 31) = true := by
  decide

/-! ## Decoding: words written out bit by bit from the spec -/

/-- Bit 31 is START and bits 2 to 0 are BRC (30_encoding.md R70, R71); the middle bits are ignored (R73). -/
theorem test_decode_commands :
    decodeTableWord 32 0b10000000000000000000000000000000 = some .decodeBrc0 ∧
    decodeTableWord 32 0b10000000000000000000000000000001 = some .decodeBrc1 ∧
    decodeTableWord 32 0b10000000000000000000000000000010 = some .decodeBrc2 ∧
    decodeTableWord 32 0b11111111111111111111111111111011 = some .decodeBrc3 ∧
    decodeTableWord 32 0b10000000000000000000000000001100 = some .decodeBrc4 ∧
    decodeTableWord 32 0b10000000000000000000000000000101 = some .decodeBrc5 ∧
    decodeTableWord 32 0b10000000000000000000000000000110 = some .decodeBrc6 ∧
    decodeTableWord 32 0b10000000000000000000000000000111 = some .decodeBrc7 := by decide

/-- Bit 31 is 0 (30_encoding.md R71). -/
theorem test_decode_cmdSet :
    decodeTableWord 32 0b00000000000000000000000000000011 = some (.cmdSet 3) ∧
    decodeTableWord 32 0b01111111111111111111111111111101 = some (.cmdSet 5) := by decide

/-- A host transaction is its own row (30_encoding.md R84); a 32-bit write of register 0 is a command word (R70). -/
theorem test_decode_transactions :
    decodeTxn (.hwr 0 0x80000001) = .decodeBrc1 ∧ decodeTxn (.hwr 0 (2 ^ 32)) = .hwr 0 (2 ^ 32) ∧
    decodeTxn (.hwr 1 7) = .hwr 1 7 ∧ decodeTxn (.hrd 3) = .hrd 3 ∧ decodeTxn (.bwr 5 1) = .bwr 5 1 ∧
    decodeTxn (.brd 6) = .brd 6 ∧ decodeTxn (.owr 7 9) = .owr 7 9 ∧ decodeTxn (.ord 8) = .ord 8 := by decide

/-- The symbols of BRC0 (95_test_vectors.md 2.1): sign 0, and sign 1 with a bit of the next symbol behind it. -/
theorem test_decode_brc0 :
    ∀ x ∈ [([O, O], Instr.cwBrc0M0 false, []),
      ([I, O, I], Instr.cwBrc0M0 true, [I]),
      ([O, I, O], Instr.cwBrc0M1 false, []),
      ([I, I, O, I], Instr.cwBrc0M1 true, [I]),
      ([O, I, I, O], Instr.cwBrc0M2 false, []),
      ([I, I, I, O, I], Instr.cwBrc0M2 true, [I]),
      ([O, I, I, I], Instr.cwBrc0M3 false, []),
      ([I, I, I, I, I], Instr.cwBrc0M3 true, [I])],
    decodeSymbol 0 x.1 = .ok x.2 := by decide

/-- The symbols of BRC1 (95_test_vectors.md 2.1): sign 0, and sign 1 with a bit of the next symbol behind it. -/
theorem test_decode_brc1 :
    ∀ x ∈ [([O, O], Instr.cwBrc1M0 false, []),
      ([I, O, I], Instr.cwBrc1M0 true, [I]),
      ([O, I, O], Instr.cwBrc1M1 false, []),
      ([I, I, O, I], Instr.cwBrc1M1 true, [I]),
      ([O, I, I, O], Instr.cwBrc1M2 false, []),
      ([I, I, I, O, I], Instr.cwBrc1M2 true, [I]),
      ([O, I, I, I, O], Instr.cwBrc1M3 false, []),
      ([I, I, I, I, O, I], Instr.cwBrc1M3 true, [I]),
      ([O, I, I, I, I], Instr.cwBrc1M4 false, []),
      ([I, I, I, I, I, I], Instr.cwBrc1M4 true, [I])],
    decodeSymbol 1 x.1 = .ok x.2 := by decide

/-- The symbols of BRC2 (95_test_vectors.md 2.1): sign 0, and sign 1 with a bit of the next symbol behind it. -/
theorem test_decode_brc2 :
    ∀ x ∈ [([O, O], Instr.cwBrc2M0 false, []),
      ([I, O, I], Instr.cwBrc2M0 true, [I]),
      ([O, I, O], Instr.cwBrc2M1 false, []),
      ([I, I, O, I], Instr.cwBrc2M1 true, [I]),
      ([O, I, I, O], Instr.cwBrc2M2 false, []),
      ([I, I, I, O, I], Instr.cwBrc2M2 true, [I]),
      ([O, I, I, I, O], Instr.cwBrc2M3 false, []),
      ([I, I, I, I, O, I], Instr.cwBrc2M3 true, [I]),
      ([O, I, I, I, I, O], Instr.cwBrc2M4 false, []),
      ([I, I, I, I, I, O, I], Instr.cwBrc2M4 true, [I]),
      ([O, I, I, I, I, I, O], Instr.cwBrc2M5 false, []),
      ([I, I, I, I, I, I, O, I], Instr.cwBrc2M5 true, [I]),
      ([O, I, I, I, I, I, I], Instr.cwBrc2M6 false, []),
      ([I, I, I, I, I, I, I, I], Instr.cwBrc2M6 true, [I])],
    decodeSymbol 2 x.1 = .ok x.2 := by decide

/-- The symbols of BRC3 (95_test_vectors.md 2.1): sign 0, and sign 1 with a bit of the next symbol behind it. -/
theorem test_decode_brc3 :
    ∀ x ∈ [([O, O, O], Instr.cwBrc3M0 false, []),
      ([I, O, O, I], Instr.cwBrc3M0 true, [I]),
      ([O, O, I], Instr.cwBrc3M1 false, []),
      ([I, O, I, I], Instr.cwBrc3M1 true, [I]),
      ([O, I, O], Instr.cwBrc3M2 false, []),
      ([I, I, O, I], Instr.cwBrc3M2 true, [I]),
      ([O, I, I, O], Instr.cwBrc3M3 false, []),
      ([I, I, I, O, I], Instr.cwBrc3M3 true, [I]),
      ([O, I, I, I, O], Instr.cwBrc3M4 false, []),
      ([I, I, I, I, O, I], Instr.cwBrc3M4 true, [I]),
      ([O, I, I, I, I, O], Instr.cwBrc3M5 false, []),
      ([I, I, I, I, I, O, I], Instr.cwBrc3M5 true, [I]),
      ([O, I, I, I, I, I, O], Instr.cwBrc3M6 false, []),
      ([I, I, I, I, I, I, O, I], Instr.cwBrc3M6 true, [I]),
      ([O, I, I, I, I, I, I, O], Instr.cwBrc3M7 false, []),
      ([I, I, I, I, I, I, I, O, I], Instr.cwBrc3M7 true, [I]),
      ([O, I, I, I, I, I, I, I, O], Instr.cwBrc3M8 false, []),
      ([I, I, I, I, I, I, I, I, O, I], Instr.cwBrc3M8 true, [I]),
      ([O, I, I, I, I, I, I, I, I], Instr.cwBrc3M9 false, []),
      ([I, I, I, I, I, I, I, I, I, I], Instr.cwBrc3M9 true, [I])],
    decodeSymbol 3 x.1 = .ok x.2 := by decide

/-- The symbols of BRC4 (95_test_vectors.md 2.1): sign 0, and sign 1 with a bit of the next symbol behind it. -/
theorem test_decode_brc4 :
    ∀ x ∈ [([O, O, O], Instr.cwBrc4M0 false, []),
      ([I, O, O, I], Instr.cwBrc4M0 true, [I]),
      ([O, O, I, O], Instr.cwBrc4M1 false, []),
      ([I, O, I, O, I], Instr.cwBrc4M1 true, [I]),
      ([O, O, I, I], Instr.cwBrc4M2 false, []),
      ([I, O, I, I, I], Instr.cwBrc4M2 true, [I]),
      ([O, I, O, O], Instr.cwBrc4M3 false, []),
      ([I, I, O, O, I], Instr.cwBrc4M3 true, [I]),
      ([O, I, O, I], Instr.cwBrc4M4 false, []),
      ([I, I, O, I, I], Instr.cwBrc4M4 true, [I]),
      ([O, I, I, O, O], Instr.cwBrc4M5 false, []),
      ([I, I, I, O, O, I], Instr.cwBrc4M5 true, [I]),
      ([O, I, I, O, I], Instr.cwBrc4M6 false, []),
      ([I, I, I, O, I, I], Instr.cwBrc4M6 true, [I]),
      ([O, I, I, I, O], Instr.cwBrc4M7 false, []),
      ([I, I, I, I, O, I], Instr.cwBrc4M7 true, [I]),
      ([O, I, I, I, I, O], Instr.cwBrc4M8 false, []),
      ([I, I, I, I, I, O, I], Instr.cwBrc4M8 true, [I]),
      ([O, I, I, I, I, I, O], Instr.cwBrc4M9 false, []),
      ([I, I, I, I, I, I, O, I], Instr.cwBrc4M9 true, [I]),
      ([O, I, I, I, I, I, I, O, O], Instr.cwBrc4M10 false, []),
      ([I, I, I, I, I, I, I, O, O, I], Instr.cwBrc4M10 true, [I]),
      ([O, I, I, I, I, I, I, O, I], Instr.cwBrc4M11 false, []),
      ([I, I, I, I, I, I, I, O, I, I], Instr.cwBrc4M11 true, [I]),
      ([O, I, I, I, I, I, I, I, O, O], Instr.cwBrc4M12 false, []),
      ([I, I, I, I, I, I, I, I, O, O, I], Instr.cwBrc4M12 true, [I]),
      ([O, I, I, I, I, I, I, I, O, I], Instr.cwBrc4M13 false, []),
      ([I, I, I, I, I, I, I, I, O, I, I], Instr.cwBrc4M13 true, [I]),
      ([O, I, I, I, I, I, I, I, I, O], Instr.cwBrc4M14 false, []),
      ([I, I, I, I, I, I, I, I, I, O, I], Instr.cwBrc4M14 true, [I]),
      ([O, I, I, I, I, I, I, I, I, I], Instr.cwBrc4M15 false, []),
      ([I, I, I, I, I, I, I, I, I, I, I], Instr.cwBrc4M15 true, [I])],
    decodeSymbol 4 x.1 = .ok x.2 := by decide

/-- No symbol: a reserved level, an end of the bits inside a code, and bits behind the symbol asked for. -/
theorem test_decode_refuses :
    decodeSymbol 5 [O, O] = .error .reservedLevel ∧ decodeSymbol 7 [] = .error .reservedLevel ∧
    decodeSymbol 0 [] = .error .endOfBits ∧ decodeSymbol 4 [I, I, I, I, I, I, I, I, I] = .error .endOfBits ∧
    decode (.symbol 0 [O, O, O]) = .error .extraBits := by decide

/-- Words of the table that one level alone reads (30_encoding.md R75). -/
theorem test_decode_table_words :
    decodeTableWord 8 0b0111 = some (.cwBrc0M3 false) ∧ decodeTableWord 8 0b01111 = some (.cwBrc1M4 false) ∧
    decodeTableWord 8 0b0111111 = some (.cwBrc2M6 false) ∧
    decodeTableWord 16 0b011111110 = some (.cwBrc3M8 false) ∧
    decodeTableWord 16 0b0111111101 = some (.cwBrc4M13 false) ∧
    decodeTableWord 16 0b1111111101 = some (.cwBrc4M13 true) ∧ decodeTableWord 32 (2 ^ 32) = none := by decide

/-! ## Single steps -/

/-- START from an idle state (40_decode_operation.md R91): STATUS reads BUSY and the level. -/
theorem test_decode_starts :
    get? (·.readReg 3) (exec .decodeBrc0 idleFull) = some 0x00000001 ∧
    get? (·.readReg 3) (exec .decodeBrc1 idleFull) = some 0x00010001 ∧
    get? (·.readReg 3) (exec .decodeBrc2 idleFull) = some 0x00020001 ∧
    get? (·.readReg 3) (exec .decodeBrc3 idleFull) = some 0x00030001 ∧
    get? (·.readReg 3) (exec .decodeBrc4 idleFull) = some 0x00040001 := by decide

/-- A reserved level ends with BRC_INVALID (60_exceptions.md R212), before RANGE is tested (R215). -/
theorem test_reserved_levels :
    get? (·.readReg 3) (exec .decodeBrc5 State.reset) = some 0x00050012 ∧
    get? (·.readReg 3) (exec .decodeBrc6 { State.reset with bitCount := 65 }) = some 0x00060012 ∧
    get? (·.readReg 3) (exec .decodeBrc7 { State.resetOf perBitPar with nout := 33 }) = some 0x00070112 := by decide

/-- A count beyond its memory ends with RANGE (60_exceptions.md R213). -/
theorem test_range :
    get? (·.readReg 3) (exec .decodeBrc0 { State.reset with bitCount := 65 }) = some 0x00000022 ∧
    get? (·.readReg 3) (exec .decodeBrc4 { State.reset with nout := 33 }) = some 0x00040022 := by decide

/-- The example of 42_host_interface.md R192: CMD reads back the level, and no command runs. -/
theorem test_cmdSet :
    get? (fun s => (s.readReg 0, s.busy)) (exec (.cmdSet 3) State.reset) = some (3, false) ∧
    get? (·.readReg 0) (exec (.cmdSet 7) State.reset) = some 7 := by decide

/-- Writes of the counts (42_host_interface.md R193, R194), and one dropped while busy (R191). -/
theorem test_hwr :
    get? (·.readReg 1) (exec (.hwr 1 7) State.reset) = some 7 ∧
    get? (·.readReg 2) (exec (.hwr 2 3) State.reset) = some 3 ∧
    get? (·.readReg 2) (exec (.hwr 2 5) (atSign [O, O] 1)) = some 1 := by decide

/-- The example of 42_host_interface.md R195: a write of STATUS leaves DONE. -/
theorem test_hwr_status : get? (·.done) (exec (.hwr 3 0) { State.reset with done := true }) = some true := by decide

/-- RESULT −2 as its register word and STATUS of 95_test_vectors.md S7. -/
theorem test_hrd :
    get? (·.reply) (exec (.hrd 6) { State.resetOf perBitPar with done := true, cursor := 2, stBrc := 1 }) =
      some (some 0xFFFFFFFE) ∧
    get? (·.reply) (exec (.hrd 3) { State.resetOf perBitPar with done := true, cursor := 2, stBrc := 1 }) =
      some (some 0x00010102) ∧
    get? (·.reply) (exec (.hrd 7) idleFull) = some (some 0) := by decide

/-- BWR and OWR store one element (42_host_interface.md R197, R199). -/
theorem test_bwr_owr :
    get? (·.bits) (exec (.bwr 5 1) { State.reset with bits := [(4, 1), (6, 1)] }) = some [(4, 1), (5, 1), (6, 1)] ∧
    get? (·.out) (exec (.owr 0 0xAA) { State.reset with out := [(0, 1)] }) = some [(0, 0xAA)] := by decide

/-- BRD and ORD answer a written element, busy or not (42_host_interface.md R198, R200). -/
theorem test_brd_ord :
    get? (·.reply) (exec (.brd 63) { State.reset with bits := [(63, 255)] }) = some (some 255) ∧
    get? (·.reply) (exec (.ord 31) { State.reset with out := [(31, 7)], busy := true }) = some (some 7) := by decide

/-- A host index outside a memory is refused (42_host_interface.md R190). -/
theorem test_index_refused :
    refusal? (exec (.bwr 64 0) State.reset) = some .bitsIndexOutOfRange ∧
    refusal? (exec (.brd 64) State.reset) = some .bitsIndexOutOfRange ∧
    refusal? (exec (.owr 32 0) State.reset) = some .outIndexOutOfRange ∧
    refusal? (exec (.ord 32) State.reset) = some .outIndexOutOfRange := by decide

/-- Any nonzero element is a 1 (20_memory.md R53): the sign bit is read as 1 from the value 2. -/
theorem test_nonzero_is_one :
    get? (·.signl) (State.decStep { atSign [O, O] 1 with bits := [(0, 2), (1, 0)] }) = some true := by decide

/-- The step at the last bit of each BRC0 code word writes the output values of 95_test_vectors.md 2.1. -/
theorem test_outputs_brc0 :
    ∀ x ∈ [(Instr.cwBrc0M0 false, O, [], O, 0),
      (Instr.cwBrc0M0 true, I, [], O, 4),
      (Instr.cwBrc0M1 false, O, [I], O, 1),
      (Instr.cwBrc0M1 true, I, [I], O, 5),
      (Instr.cwBrc0M2 false, O, [I, I], O, 2),
      (Instr.cwBrc0M2 true, I, [I, I], O, 6),
      (Instr.cwBrc0M3 false, O, [I, I], I, 3),
      (Instr.cwBrc0M3 true, I, [I, I], I, 7)],
    get? (·.out) (exec x.1 (atCode Params.standard .brc0 x.2.1 x.2.2.1 x.2.2.2.1)) = some [(0, x.2.2.2.2)] := by
  decide

/-- The step at the last bit of each BRC1 code word writes the output values of 95_test_vectors.md 2.1. -/
theorem test_outputs_brc1 :
    ∀ x ∈ [(Instr.cwBrc1M0 false, O, [], O, 0),
      (Instr.cwBrc1M0 true, I, [], O, 5),
      (Instr.cwBrc1M1 false, O, [I], O, 1),
      (Instr.cwBrc1M1 true, I, [I], O, 6),
      (Instr.cwBrc1M2 false, O, [I, I], O, 2),
      (Instr.cwBrc1M2 true, I, [I, I], O, 7),
      (Instr.cwBrc1M3 false, O, [I, I, I], O, 3),
      (Instr.cwBrc1M3 true, I, [I, I, I], O, 8),
      (Instr.cwBrc1M4 false, O, [I, I, I], I, 4),
      (Instr.cwBrc1M4 true, I, [I, I, I], I, 9)],
    get? (·.out) (exec x.1 (atCode Params.standard .brc1 x.2.1 x.2.2.1 x.2.2.2.1)) = some [(0, x.2.2.2.2)] := by
  decide

/-- The step at the last bit of each BRC2 code word writes the output values of 95_test_vectors.md 2.1. -/
theorem test_outputs_brc2 :
    ∀ x ∈ [(Instr.cwBrc2M0 false, O, [], O, 0),
      (Instr.cwBrc2M0 true, I, [], O, 7),
      (Instr.cwBrc2M1 false, O, [I], O, 1),
      (Instr.cwBrc2M1 true, I, [I], O, 8),
      (Instr.cwBrc2M2 false, O, [I, I], O, 2),
      (Instr.cwBrc2M2 true, I, [I, I], O, 9),
      (Instr.cwBrc2M3 false, O, [I, I, I], O, 3),
      (Instr.cwBrc2M3 true, I, [I, I, I], O, 10),
      (Instr.cwBrc2M4 false, O, [I, I, I, I], O, 4),
      (Instr.cwBrc2M4 true, I, [I, I, I, I], O, 11),
      (Instr.cwBrc2M5 false, O, [I, I, I, I, I], O, 5),
      (Instr.cwBrc2M5 true, I, [I, I, I, I, I], O, 12),
      (Instr.cwBrc2M6 false, O, [I, I, I, I, I], I, 6),
      (Instr.cwBrc2M6 true, I, [I, I, I, I, I], I, 13)],
    get? (·.out) (exec x.1 (atCode Params.standard .brc2 x.2.1 x.2.2.1 x.2.2.2.1)) = some [(0, x.2.2.2.2)] := by
  decide

/-- The step at the last bit of each BRC3 code word writes the output values of 95_test_vectors.md 2.1. -/
theorem test_outputs_brc3 :
    ∀ x ∈ [(Instr.cwBrc3M0 false, O, [O], O, 0),
      (Instr.cwBrc3M0 true, I, [O], O, 10),
      (Instr.cwBrc3M1 false, O, [O], I, 1),
      (Instr.cwBrc3M1 true, I, [O], I, 11),
      (Instr.cwBrc3M2 false, O, [I], O, 2),
      (Instr.cwBrc3M2 true, I, [I], O, 12),
      (Instr.cwBrc3M3 false, O, [I, I], O, 3),
      (Instr.cwBrc3M3 true, I, [I, I], O, 13),
      (Instr.cwBrc3M4 false, O, [I, I, I], O, 4),
      (Instr.cwBrc3M4 true, I, [I, I, I], O, 14),
      (Instr.cwBrc3M5 false, O, [I, I, I, I], O, 5),
      (Instr.cwBrc3M5 true, I, [I, I, I, I], O, 15),
      (Instr.cwBrc3M6 false, O, [I, I, I, I, I], O, 6),
      (Instr.cwBrc3M6 true, I, [I, I, I, I, I], O, 16),
      (Instr.cwBrc3M7 false, O, [I, I, I, I, I, I], O, 7),
      (Instr.cwBrc3M7 true, I, [I, I, I, I, I, I], O, 17),
      (Instr.cwBrc3M8 false, O, [I, I, I, I, I, I, I], O, 8),
      (Instr.cwBrc3M8 true, I, [I, I, I, I, I, I, I], O, 18),
      (Instr.cwBrc3M9 false, O, [I, I, I, I, I, I, I], I, 9),
      (Instr.cwBrc3M9 true, I, [I, I, I, I, I, I, I], I, 19)],
    get? (·.out) (exec x.1 (atCode Params.standard .brc3 x.2.1 x.2.2.1 x.2.2.2.1)) = some [(0, x.2.2.2.2)] := by
  decide

/-- The step at the last bit of each BRC4 code word writes the output values of 95_test_vectors.md 2.1. -/
theorem test_outputs_brc4 :
    ∀ x ∈ [(Instr.cwBrc4M0 false, O, [O], O, 0),
      (Instr.cwBrc4M0 true, I, [O], O, 16),
      (Instr.cwBrc4M1 false, O, [O, I], O, 1),
      (Instr.cwBrc4M1 true, I, [O, I], O, 17),
      (Instr.cwBrc4M2 false, O, [O, I], I, 2),
      (Instr.cwBrc4M2 true, I, [O, I], I, 18),
      (Instr.cwBrc4M3 false, O, [I, O], O, 3),
      (Instr.cwBrc4M3 true, I, [I, O], O, 19),
      (Instr.cwBrc4M4 false, O, [I, O], I, 4),
      (Instr.cwBrc4M4 true, I, [I, O], I, 20),
      (Instr.cwBrc4M5 false, O, [I, I, O], O, 5),
      (Instr.cwBrc4M5 true, I, [I, I, O], O, 21),
      (Instr.cwBrc4M6 false, O, [I, I, O], I, 6),
      (Instr.cwBrc4M6 true, I, [I, I, O], I, 22),
      (Instr.cwBrc4M7 false, O, [I, I, I], O, 7),
      (Instr.cwBrc4M7 true, I, [I, I, I], O, 23),
      (Instr.cwBrc4M8 false, O, [I, I, I, I], O, 8),
      (Instr.cwBrc4M8 true, I, [I, I, I, I], O, 24),
      (Instr.cwBrc4M9 false, O, [I, I, I, I, I], O, 9),
      (Instr.cwBrc4M9 true, I, [I, I, I, I, I], O, 25),
      (Instr.cwBrc4M10 false, O, [I, I, I, I, I, I, O], O, 10),
      (Instr.cwBrc4M10 true, I, [I, I, I, I, I, I, O], O, 26),
      (Instr.cwBrc4M11 false, O, [I, I, I, I, I, I, O], I, 11),
      (Instr.cwBrc4M11 true, I, [I, I, I, I, I, I, O], I, 27),
      (Instr.cwBrc4M12 false, O, [I, I, I, I, I, I, I, O], O, 12),
      (Instr.cwBrc4M12 true, I, [I, I, I, I, I, I, I, O], O, 28),
      (Instr.cwBrc4M13 false, O, [I, I, I, I, I, I, I, O], I, 13),
      (Instr.cwBrc4M13 true, I, [I, I, I, I, I, I, I, O], I, 29),
      (Instr.cwBrc4M14 false, O, [I, I, I, I, I, I, I, I], O, 14),
      (Instr.cwBrc4M14 true, I, [I, I, I, I, I, I, I, I], O, 30),
      (Instr.cwBrc4M15 false, O, [I, I, I, I, I, I, I, I], I, 15),
      (Instr.cwBrc4M15 true, I, [I, I, I, I, I, I, I, I], I, 31)],
    get? (·.out) (exec x.1 (atCode Params.standard .brc4 x.2.1 x.2.2.1 x.2.2.2.1)) = some [(0, x.2.2.2.2)] := by
  decide

/-- The sample that PER_BIT mode leaves unfinished (95_test_vectors.md S7): the step finds the input exhausted. -/
theorem test_exhausted_per_bit :
    get? (fun s => (s.readReg 3, s.samples, s.readReg 6))
      (State.decStep { atCode perBitPar .brc1 O [I] O with bitCount := 2 }) = some (0x00010102, 0, 0xFFFFFFFE) := by
  decide

/-- The same bits in SAMPLE_BOUNDARY mode with BITBUF_LEN = 2: OVERRUN (95_test_vectors.md S8). -/
theorem test_overrun :
    get? (fun s => (s.readReg 3, s.cursor, s.samples))
      (State.decStep { atCode { Params.standard with bitbufLen := 2 } .brc1 O [I] O with bitCount := 2 }) =
        some (0x00010032, 2, 0) := by decide

/-- A code-word instruction in a state that does not read that code word is refused. -/
theorem test_code_refused :
    refusal? (exec (.cwBrc0M2 false) (atCode Params.standard .brc0 O [I] O)) = some .codeWordNotRecognised ∧
    refusal? (exec (.cwBrc0M0 false) State.reset) = some .codeWordNotRecognised := by decide

/-- The faults of states that no run reaches. -/
theorem test_faults :
    fault? (step { State.reset with busy := true }) = some .busyWhileIdle ∧
    fault? (step { atCode Params.standard .brc0 O [] O with stBrc := 5 }) = some .noTable ∧
    fault? (step { atCode Params.standard .brc0 O [] O with samples := 32 }) = some .outIndexBeyondCapacity := by decide

/-- `decode_fn` on the bits of 95_test_vectors.md S5's corrected scenario. -/
theorem test_decodeFn :
    decodeFn .brc0 .sampleBoundary 8 3 (fun i => [I, O, O, O, O, I, I, O].getD i O) =
      some { cursor := 8, samples := 3, complete := true, out := [4, 0, 2] } := by decide

/-- The pseudo-instruction DECODE.BRC3 8, 3 (30_encoding.md R83). -/
theorem test_pseudo :
    decodeCommand 3 8 3 = [.txn (.hwr 1 8), .txn (.hwr 2 3), .txn (.hwr 0 0x80000003)] ∧
    bload 4 [1, 0] = [.txn (.bwr 4 1), .txn (.bwr 5 0)] ∧ ofill 0 2 170 = [.txn (.owr 0 170), .txn (.owr 1 170)] := by
  decide

/-! ## A placed word is what the next step runs -/

theorem test_fetch_command :
    get? (·.readReg 3) (step (State.reset.withFetchWord 32 0x80000002)) = some 0x00020001 ∧
    get? (·.readReg 3) (step (State.reset.withFetchWord 32 0x80000006)) = some 0x00060012 ∧
    get? (·.readReg 0) (step (State.reset.withFetchWord 32 0x00000005)) = some 5 := by decide

theorem test_fetch_symbol :
    get? (·.out) (step (State.reset.withFetchWord 8 0b0111)) = some [(0, 3)] ∧
    get? (·.out) (step (State.reset.withFetchWord 16 0b1111111101)) = some [(0, 29)] := by decide

/-! ## Witnesses: the hypotheses of each obligation, met together -/

/-- An idle state meets the hypotheses on BUSY and, with both counts at the ends of their ranges, on the memories. -/
theorem witness_DecodeCommandsStart :
    idleFull.busy = false ∧ idleFull.bitCount ≤ idleFull.par.bitbufLen ∧ idleFull.nout ≤ idleFull.par.outCap ∧
    (Instr.decodeBrc4, (4 : BrcField)) ∈ [(Instr.decodeBrc0, (0 : BrcField)), (.decodeBrc1, 1), (.decodeBrc2, 2),
      (.decodeBrc3, 3), (.decodeBrc4, 4)] := by decide

theorem witness_DecodeOfEncodeIsTheInstruction :
    Instr.WF Params.standard (.hwr 1 (2 ^ 32 - 1)) = true ∧ Instr.WF Params.standard (.hwr 7 (2 ^ 40)) = true ∧
    Instr.WF Params.standard (.cmdSet 7) = true ∧ Instr.WF Params.standard (.cwBrc4M15 true) = true := by decide

theorem witness_SymbolDecodingStopsAtItsCodeWord :
    Level.brc4.table[15]? = some [I, I, I, I, I, I, I, I, I] ∧ Level.brc0.table[0]? = some [O] := by decide

theorem witness_EveryBitStringBeginsWithOneCodeWord :
    [I, I, O].length = Level.brc0.lmax ∧ Level.brc0.table[2]? = some [I, I, O] ∧ [I, I, O] <+: [I, I, O] := by decide

theorem witness_CanonicalLeafTestAgreesWithTheMatcher :
    isInternal .brc4 0 0 = true ∧ isInternal .brc4 8 0b11111111 = true ∧ isInternal .brc4 7 0b1111110 = true := by
  decide

theorem witness_ReservedCommandBitsAreIgnored :
    (0x80000003 : BitVec 32).getLsbD 31 = (0xFFFFFFFB : BitVec 32).getLsbD 31 ∧
    (0x80000003 : BitVec 32).extractLsb' 0 3 = (0xFFFFFFFB : BitVec 32).extractLsb' 0 3 := by decide

theorem witness_ReservedLevelsEndAtOnce :
    idleFull.busy = false ∧ (Instr.decodeBrc7, (7 : BrcField)) ∈ [(Instr.decodeBrc5, (5 : BrcField)),
      (.decodeBrc6, 6), (.decodeBrc7, 7)] := by decide

theorem witness_CountsBeyondTheMemoriesRaiseRange :
    ∀ s ∈ [{ idleFull with bitCount := 65 }, { idleFull with nout := 33 }],
      s.busy = false ∧ (s.par.bitbufLen < s.bitCount ∨ s.par.outCap < s.nout) := by decide

theorem witness_CommandWordWriteSelectsItsOperation :
    idleFull.busy = false ∧ (0x80000007 : BitVec 32).getLsbD 31 = true ∧
    (0x80000007 : BitVec 32).extractLsb' 0 3 = 7 ∧ (0x7FFFFFFF : BitVec 32).getLsbD 31 = false := by decide

theorem witness_CommandFrame :
    (∃ t, exec .decodeBrc0 idleFull = .next t) ∧ (∃ t, exec .decodeBrc7 idleFull = .next t) ∧
    ∃ t, exec (.cmdSet 7) idleFull = .next t := ⟨⟨_, rfl⟩, ⟨_, rfl⟩, ⟨_, rfl⟩⟩

theorem witness_CountWritesStoreTheirValue : idleFull.busy = false ∧ Fits idleFull.par.wCnt (2 ^ 32 - 1) := by decide

/-- DONE cleared by a reset and by a START, and an error cleared by a START. -/
theorem witness_ReadOnlyRegisterWritesHaveNoEffect :
    get? (·.done) (step { State.reset with done := true, inbox := [.reset] }) = some false ∧
    get? (fun s => (s.done, s.err)) (step { State.reset with
      done := true, err := .range, inbox := [.txn (.hwr 0 0x80000000)] }) = some (false, .noError) := by decide

theorem witness_BusyDropsEveryWrite :
    (atSign [O, O] 1).busy = true ∧ Fits 32 (2 ^ 32 - 1) ∧
    Instr.WF (atSign [O, O] 1).par (.hwr 2 (2 ^ 32 - 1)) = true ∧
    Instr.WF (atSign [O, O] 1).par (.bwr 63 255) = true ∧ Instr.WF (atSign [O, O] 1).par (.owr 31 255) = true := by
  decide

theorem witness_BitsWriteStoresOneElement :
    idleFull.busy = false ∧ 63 < idleFull.par.bitbufLen ∧ Fits idleFull.par.elemW 255 := by decide

theorem witness_OutWriteStoresOneElement :
    idleFull.busy = false ∧ 31 < idleFull.par.outCap ∧ Fits idleFull.par.outW 255 := by decide

/-- The last element of each memory, written in the first case and unwritten in the second. -/
theorem witness_ElementReadsGiveTheElement :
    (∀ s ∈ [{ State.reset with bits := [(63, 1)], out := [(31, 1)] }],
      63 < s.par.bitbufLen ∧ Mem.read? s.bits 63 = some 1 ∧ 31 < s.par.outCap ∧ Mem.read? s.out 31 = some 1) ∧
    63 < State.reset.par.bitbufLen ∧ Mem.read? State.reset.bits 63 = none ∧ 31 < State.reset.par.outCap ∧
    Mem.read? State.reset.out 31 = none := by decide

theorem witness_HostReadsAreIdempotent :
    (∃ t, exec (.hrd 3) idleFull = .next t) ∧ (∃ t, exec (.brd 63) idleFull = .next t) ∧
    ∃ t, exec (.ord 31) idleFull = .next t := ⟨⟨_, rfl⟩, ⟨_, rfl⟩, ⟨_, rfl⟩⟩

theorem witness_HostIndexBeyondAMemoryIsRefused :
    State.reset.par.bitbufLen ≤ 64 ∧ State.reset.par.outCap ≤ 32 := by decide

theorem witness_OtherStopsAreByName :
    ¬ Fits 32 (2 ^ 32) ∧ ¬ Fits State.reset.par.wCnt (2 ^ 32) ∧
    (63 < State.reset.par.bitbufLen ∧ ¬ Fits State.reset.par.elemW 256) ∧
    (31 < State.reset.par.outCap ∧ ¬ Fits State.reset.par.outW 256) ∧
    (Instr.cwBrc0M0 true).codeWord.isSome = true ∧ State.reset.nextCodeWord ≠ some (.cwBrc0M0 true) := by decide

theorem witness_HostTransactionFrame :
    ∀ i ∈ [Instr.hwr 1 7, .hwr 2 7, .hwr 3 7, .hrd 6, .brd 63, .ord 31, .bwr 63 255, .owr 31 255],
      (get? (fun _ => true) (exec i idleFull)).isSome = true := by decide

/-- The four cases of the sample-start step, each at its boundary: all samples done, CURSOR = BIT_COUNT, one bit left at
the last element, and (in a state that no run reaches) CURSOR = BITBUF_LEN. -/
theorem witness_SampleStartStep :
    (∀ s ∈ [{ atSign [O, O] 1 with samples := 1 }, { atSign [O, O] 1 with cursor := 2 }],
      s.busy = true ∧ s.phase = .sign ∧ (s.samples = s.nout ∨ s.bitCount ≤ s.cursor)) ∧
    (∀ s ∈ [{ atSign [O, O] 1 with bitCount := 64, cursor := 63 }],
      s.busy = true ∧ s.phase = .sign ∧ s.samples ≠ s.nout ∧ s.cursor < s.bitCount ∧
        s.cursor < s.par.bitbufLen) ∧
    ∀ s ∈ [{ atSign [O, O] 1 with bitCount := 65, cursor := 64 }],
      s.busy = true ∧ s.phase = .sign ∧ s.samples ≠ s.nout ∧ s.cursor < s.bitCount ∧
        s.par.bitbufLen ≤ s.cursor := by
  decide

/-- The cases of the code-bit step: exhausted at CURSOR = BIT_COUNT in PER_BIT mode, CURSOR = BITBUF_LEN in
SAMPLE_BOUNDARY mode, and a read of the last element that leads to an inner node and to a code word. -/
theorem witness_CodeBitStep :
    (∀ s ∈ [{ atCode perBitPar .brc1 O [I] O with bitCount := 2 }],
      s.busy = true ∧ s.phase = .code ∧ Level.ofField s.stBrc = some .brc1 ∧ s.par.boundCheck = .perBit ∧
        s.bitCount ≤ s.cursor) ∧
    (∀ s ∈ [{ atCode { Params.standard with bitbufLen := 2 } .brc1 O [I] O with bitCount := 2 }],
      s.busy = true ∧ s.phase = .code ∧ Level.ofField s.stBrc = some .brc1 ∧
        ¬ (s.par.boundCheck = .perBit ∧ s.bitCount ≤ s.cursor) ∧ s.par.bitbufLen ≤ s.cursor) ∧
    (∀ s ∈ [atCode { perBitPar with bitbufLen := 3 } .brc1 O [I] I],
      ¬ (s.par.boundCheck = .perBit ∧ s.bitCount ≤ s.cursor) ∧ s.cursor < s.par.bitbufLen ∧
        matchCode .brc1 (s.len + 1).toNat
          ((s.acc <<< 1) ||| (if s.readBits s.cursor ≠ 0 then 1 else 0 : BitVec 9)).toNat = none) ∧
    ∀ s ∈ [atCode { Params.standard with bitbufLen := 3, outCap := 1 } .brc1 O [I] O],
      ¬ (s.par.boundCheck = .perBit ∧ s.bitCount ≤ s.cursor) ∧ s.cursor < s.par.bitbufLen ∧
        matchCode .brc1 (s.len + 1).toNat
          ((s.acc <<< 1) ||| (if s.readBits s.cursor ≠ 0 then 1 else 0 : BitVec 9)).toNat = some 1 ∧
        s.samples < s.par.outCap := by decide

/-- Where the bit `last` is the element at CURSOR, `atCode` stands at the last bit of a code word. -/
theorem atCode_atLastBit {p : Params} {lv : Level} {sign last : Bool} {pre : List Bool} (hout : 0 < p.outCap)
    (hlen : pre.length + 1 < p.bitbufLen)
    (hlast : Mem.read? (bitsFrom 0 (sign :: (pre ++ [last]))) (pre.length + 1) = some last.toNat) :
    (atCode p lv sign pre last).AtLastBit lv sign pre last := by
  refine ⟨rfl, rfl, rfl, rfl, rfl, rfl, fun _ => ?_, hout, ?_⟩
  · show pre.length + 1 < pre.length + 2
    omega
  · have hread : (atCode p lv sign pre last).readBits (pre.length + 1) = last.toNat := by
      simp [State.readBits, atCode, State.resetOf, hlast]
    show State.readBit _ (pre.length + 1) = _
    unfold State.readBit
    rw [if_neg (by show ¬ _ ≥ p.bitbufLen; omega), hread]
    cases last <;> rfl

/-- The bits before the last, and the last bit, of each code word of a level. -/
def lastBits (lv : Level) : List (List Bool × Bool) := lv.table.map fun c => (c.dropLast, c.getLastD O)

/-- `LMAX + 1` BITS elements and one OUT element. -/
def tightPars (lv : Level) : List Params :=
  [{ perBitPar with outCap := 1, bitbufLen := lv.lmax + 1 },
    { Params.standard with outCap := 1, bitbufLen := lv.lmax + 1 }]

/-- The last bit of each code word of a level, for each sign, in both modes, with as few elements as the symbol needs. -/
theorem atLastBit_of_table (lv : Level) : ∀ x ∈ lastBits lv, ∀ sign, ∀ p ∈ tightPars lv,
    (atCode p lv sign x.1 x.2).AtLastBit lv sign x.1 x.2 := by
  have key : ∀ x ∈ lastBits lv, ∀ sign, ∀ p ∈ tightPars lv, 0 < p.outCap ∧ x.1.length + 1 < p.bitbufLen ∧
      Mem.read? (bitsFrom 0 (sign :: (x.1 ++ [x.2]))) (x.1.length + 1) = some x.2.toNat := by cases lv <;> decide
  exact fun x hx sign p hp => atCode_atLastBit (key x hx sign p hp).1 (key x hx sign p hp).2.1 (key x hx sign p hp).2.2

theorem witness_Brc0CodeWordsWriteTheirOutput :
    lastBits .brc0 = [([], O), ([I], O), ([I, I], O), ([I, I], I)] ∧
    ∀ x ∈ lastBits .brc0, ∀ sign, ∀ p ∈ tightPars .brc0,
      (atCode p .brc0 sign x.1 x.2).AtLastBit .brc0 sign x.1 x.2 :=
  ⟨by decide, atLastBit_of_table .brc0⟩

theorem witness_Brc1CodeWordsWriteTheirOutput :
    lastBits .brc1 = [([], O), ([I], O), ([I, I], O), ([I, I, I], O), ([I, I, I], I)] ∧
    ∀ x ∈ lastBits .brc1, ∀ sign, ∀ p ∈ tightPars .brc1,
      (atCode p .brc1 sign x.1 x.2).AtLastBit .brc1 sign x.1 x.2 :=
  ⟨by decide, atLastBit_of_table .brc1⟩

theorem witness_Brc2CodeWordsWriteTheirOutput :
    lastBits .brc2 = [([], O), ([I], O), ([I, I], O), ([I, I, I], O), ([I, I, I, I], O), ([I, I, I, I, I], O),
        ([I, I, I, I, I], I)] ∧
    ∀ x ∈ lastBits .brc2, ∀ sign, ∀ p ∈ tightPars .brc2,
      (atCode p .brc2 sign x.1 x.2).AtLastBit .brc2 sign x.1 x.2 :=
  ⟨by decide, atLastBit_of_table .brc2⟩

theorem witness_Brc3CodeWordsWriteTheirOutput :
    lastBits .brc3 = [([O], O), ([O], I), ([I], O), ([I, I], O), ([I, I, I], O), ([I, I, I, I], O),
        ([I, I, I, I, I], O), ([I, I, I, I, I, I], O), ([I, I, I, I, I, I, I], O),
        ([I, I, I, I, I, I, I], I)] ∧
    ∀ x ∈ lastBits .brc3, ∀ sign, ∀ p ∈ tightPars .brc3,
      (atCode p .brc3 sign x.1 x.2).AtLastBit .brc3 sign x.1 x.2 :=
  ⟨by decide, atLastBit_of_table .brc3⟩

theorem witness_Brc4CodeWordsWriteTheirOutput :
    lastBits .brc4 = [([O], O), ([O, I], O), ([O, I], I), ([I, O], O), ([I, O], I), ([I, I, O], O), ([I, I, O], I),
        ([I, I, I], O), ([I, I, I, I], O), ([I, I, I, I, I], O), ([I, I, I, I, I, I, O], O),
        ([I, I, I, I, I, I, O], I), ([I, I, I, I, I, I, I, O], O), ([I, I, I, I, I, I, I, O], I),
        ([I, I, I, I, I, I, I, I], O), ([I, I, I, I, I, I, I, I], I)] ∧
    ∀ x ∈ lastBits .brc4, ∀ sign, ∀ p ∈ tightPars .brc4,
      (atCode p .brc4 sign x.1 x.2).AtLastBit .brc4 sign x.1 x.2 :=
  ⟨by decide, atLastBit_of_table .brc4⟩

theorem witness_DecStepFrame :
    (∃ t, (atSign [O, O] 1).decStep = .next t) ∧
    (Instr.cwBrc0M0 false).codeWord.isSome = true ∧
    ∃ t, exec (.cwBrc0M0 false) (atCode Params.standard .brc0 O [] O) = .next t := ⟨⟨_, rfl⟩, rfl, ⟨_, rfl⟩⟩

/-- A step after which the command goes on, and one that ends it. -/
theorem witness_CursorCountsElementsRead :
    (atSign [O, O] 1).busy = true ∧ get? (·.busy) (atSign [O, O] 1).decStep = some true ∧
    (atSign [O, O] 0).busy = true ∧ get? (·.busy) (atSign [O, O] 0).decStep = some false := by decide

/-- The longest code word of BRC4 behind sign 1, ending at the last BITS element and written to the last OUT element. -/
theorem witness_SymbolTakesOneStepPerBit :
    ∀ s ∈ [{ State.reset with
        busy := true, phase := .sign, stBrc := 4, bitCount := 64, nout := 32, cursor := 54, samples := 31,
        bits := bitsFrom 54 [I, I, I, I, I, I, I, I, O, I] }],
      Level.brc4.table[13]? = some [I, I, I, I, I, I, I, O, I] ∧ Level.ofField s.stBrc = some .brc4 ∧ s.busy = true ∧
      s.phase = .sign ∧ s.inbox = [] ∧ s.samples ≠ s.nout ∧ s.samples < s.par.outCap ∧
      s.cursor + (9 + 1) ≤ s.bitCount ∧
      s.bitCount ≤ s.par.bitbufLen ∧
      ∀ k < 10, ∀ b, [I, I, I, I, I, I, I, I, O, I][k]? = some b →
        (Mem.read? s.bits (s.cursor + k)).map (fun v => decide (v ≠ 0)) = some b := by decide

/-- The bits of two BRC0 symbols, `00` and `10`, at the start of a command with NOUT = OUT_CAP. -/
def twoSymbols (p : Params) (bitCount : Nat) : State :=
  { State.resetOf { p with outCap := 2 } with
    busy := true, phase := .sign, bitCount := bitCount, nout := 2, bits := bitsFrom 0 [O, O, I, O] }

/-- In each mode with BIT_COUNT = BITBUF_LEN: without an error to the last element. In SAMPLE_BOUNDARY mode with the last
symbol cut off by BITBUF_LEN: CURSOR_r beyond it. In PER_BIT mode the same bits: no error. -/
theorem witness_StepMachineComputesTheWholeCommand :
    ∀ x ∈ [(BoundCheck.sampleBoundary, 4, 4), (.perBit, 4, 4), (.sampleBoundary, 3, 4), (.perBit, 3, 3)],
    ∀ s ∈ [twoSymbols { Params.standard with boundCheck := x.1, bitbufLen := x.2.1 } x.2.1],
      Level.ofField s.stBrc = some .brc0 ∧ s.busy = true ∧ s.phase = .sign ∧ s.inbox = [] ∧ s.cursor = 0 ∧
      s.samples = 0 ∧ s.bitCount ≤ s.par.bitbufLen ∧ s.nout ≤ s.par.outCap ∧
      (decodeFn .brc0 s.par.boundCheck s.bitCount s.nout s.commandBit).map (·.cursor) = some x.2.2 := by decide

/-- A sign and the longest code word of BRC4, then the shortest. -/
theorem witness_ConcatenatedSymbolsDecode :
    (∀ x ∈ [(15, true), (0, false)], x.1 < Level.brc4.alphabet) ∧
    ([(15, true), (0, false)].map fun x => x.2 :: Level.brc4.table.getD x.1 []).flatten =
      [I, I, I, I, I, I, I, I, I, I, O, O, O] := by decide

/-- A state between samples, in either mode, meets the invariant. -/
theorem inv_atSign : ∀ n ∈ [0, 1], ∀ c ∈ [0, 2], ∀ b ∈ [BoundCheck.sampleBoundary, .perBit],
    State.Inv { atSign [O, O] n with cursor := c, par := { Params.standard with boundCheck := b } } := by
  intro n hn c hc b hb
  simp only [List.mem_cons, List.not_mem_nil, or_false] at hn hc hb
  rcases hn with rfl | rfl <;> rcases hc with rfl | rfl <;> rcases hb with rfl | rfl <;> constructor <;>
    decide

/-- A state inside a code meets the invariant: the sign bit and the code bit 1 of BRC1 are read. -/
theorem inv_atCode : ∀ x ∈ [(2, Params.standard, [(2, 0)]), (3, perBitPar, [(2, 0)]), (2, perBitPar, []),
      (2, { Params.standard with bitbufLen := 2 }, [])],
    State.Inv { atCode x.2.1 .brc1 O [I] O with bitCount := x.1, bits := x.2.2 } := by
  intro x hx
  simp only [List.mem_cons, List.not_mem_nil, or_false] at hx
  rcases hx with rfl | rfl | rfl | rfl <;> constructor <;> decide

theorem witness_RunningCommandEnds :
    ∀ s ∈ [atSign [O, O] 1],
      s.Inv ∧ s.busy = true ∧ s.inbox = [] ∧ Level.ofField s.stBrc = some .brc0 := by
  intro s hs
  obtain rfl := List.mem_singleton.1 hs
  exact ⟨inv_atSign 1 (by decide) 0 (by decide) .sampleBoundary (by decide), by decide⟩

theorem witness_ZeroCases :
    (∀ s ∈ [{ idleFull with nout := 0 }], s.busy = false ∧ s.bitCount ≤ s.par.bitbufLen ∧ s.nout = 0) ∧
    ∀ s ∈ [{ idleFull with bitCount := 0, nout := 1 }, { idleFull with bitCount := 0 }],
      s.busy = false ∧ s.nout ≤ s.par.outCap ∧ s.bitCount = 0 ∧ 1 ≤ s.nout := by decide

/-- CURSOR = BIT_COUNT with all samples done, and with one missing. -/
theorem witness_ExactBoundary :
    ∀ n ∈ [0, 1], ∀ s ∈ [{ atSign [O, O] n with cursor := 2 }],
      s.Inv ∧ s.busy = true ∧ s.phase = .sign ∧ s.cursor = s.bitCount ∧ (s.samples = s.nout ↔ n = 0) := by
  intro n hn s hs
  obtain rfl := List.mem_singleton.1 hs
  refine ⟨inv_atSign n hn 2 (by decide) .sampleBoundary (by decide), rfl, rfl, rfl, ?_⟩
  show (0 : Nat) = n ↔ n = 0
  omega

/-- Between samples: a step that ends a command with COMPLETE = 1, and one with COMPLETE = 0, in each mode. Inside a code:
one that ends it in PER_BIT mode. -/
theorem witness_CompleteMeansAllSamplesWritten :
    (∀ x ∈ [(0, true), (1, false)], ∀ b ∈ [BoundCheck.sampleBoundary, .perBit],
      ∀ s ∈ [{ atSign [O, O] x.1 with cursor := 2, par := { Params.standard with boundCheck := b } }],
        s.Inv ∧ s.busy = true ∧
        get? (fun t => (t.busy, t.err, t.complete)) s.decStep = some (false, .noError, x.2)) ∧
    ∀ s ∈ [{ atCode perBitPar .brc1 O [I] O with bitCount := 2, bits := [] }],
      s.Inv ∧ s.busy = true ∧ s.phase = .code ∧
      get? (fun t => (t.busy, t.err, t.complete)) s.decStep = some (false, .noError, false) := by
  refine ⟨fun x hx b hb s hs => ?_, fun s hs => ?_⟩ <;> obtain rfl := List.mem_singleton.1 hs
  · refine ⟨inv_atSign x.1 ?_ 2 (by decide) b hb, rfl, ?_⟩ <;> revert b <;> revert x <;> decide
  · exact ⟨inv_atCode (2, perBitPar, []) (by decide), by decide⟩

theorem witness_OverrunIsPrecise :
    ∀ s ∈ [{ atCode { Params.standard with bitbufLen := 2 } .brc1 O [I] O with bitCount := 2, bits := [] }],
      s.Inv ∧ s.busy = true ∧ s.phase = .code ∧ Level.ofField s.stBrc = some .brc1 ∧
      s.par.boundCheck = .sampleBoundary ∧ s.par.bitbufLen ≤ s.cursor ∧
      get? (·.err) s.decStep = some .overrun := by
  intro s hs
  obtain rfl := List.mem_singleton.1 hs
  exact ⟨inv_atCode (2, { Params.standard with bitbufLen := 2 }, []) (by decide), by decide⟩

/-- A read at the last index below BIT_COUNT in PER_BIT mode, and one at BIT_COUNT in SAMPLE_BOUNDARY mode. -/
theorem witness_ReadsStayWithinTheirBounds :
    ∀ x ∈ [(2, Params.standard, [(2, 0)]), (3, perBitPar, [(2, 0)])],
      ∀ s ∈ [{ atCode x.2.1 .brc1 O [I] O with bitCount := x.1, bits := x.2.2 }],
        s.Inv ∧ s.busy = true ∧ Level.ofField s.stBrc = some .brc1 ∧
        get? (fun t => decide (t.cursor = s.cursor + 1)) s.decStep = some true := by
  intro x hx s hs
  obtain rfl := List.mem_singleton.1 hs
  refine ⟨inv_atCode x ?_, rfl, rfl, ?_⟩ <;> revert x <;> decide

/-- Two idle states with every BITS element written that differ in OUT, flags, records and the key of the draws; two with
unwritten elements and one key; and two running states that differ in SIGNL, ACC, LEN and the OUT elements from SAMPLES
on. -/
theorem witness_CommandDoesNotDependOnEarlierOnes :
    (∀ s ∈ [{ idleFull with par := { Params.standard with bitbufLen := 2 }, bitCount := 2, bits := [(0, 1), (1, 0)] }],
      ∀ t ∈ [{ s with done := true, err := .range, cursor := 5, out := [(0, 7), (3, 1)], drawKey := 9 }],
        s.busy = false ∧ t.busy = false ∧ s.par = t.par ∧ s.bitCount = t.bitCount ∧ s.nout = t.nout ∧
        s.bits = t.bits ∧ State.SameDraws s t ∧ ∃ s', exec .decodeBrc3 s = .next s') ∧
    State.SameDraws idleFull { idleFull with out := [(0, 7)] } ∧
    State.SameCommand { atSign [O, O] 2 with samples := 1, out := [(0, 3)] }
      { atSign [O, O] 2 with samples := 1, out := [(0, 3), (1, 8)], signl := true, acc := 3, len := 2, cmdBrc := 4 } ∧
    ∃ s', State.decStep { atSign [O, O] 2 with samples := 1, out := [(0, 3)] } = .next s' := by
  refine ⟨fun s hs t ht => ?_, sameDraws_of_drawKey rfl, ⟨rfl, ⟨rfl, rfl⟩, ⟨rfl, rfl, rfl, rfl, rfl⟩, ⟨rfl, rfl, rfl⟩,
    by decide, rfl, by decide, sameDraws_of_drawKey rfl⟩, ⟨_, rfl⟩⟩
  obtain rfl := List.mem_singleton.1 hs
  obtain rfl := List.mem_singleton.1 ht
  exact ⟨rfl, rfl, rfl, rfl, rfl, rfl, sameDraws_of_written (by decide), ⟨_, rfl⟩⟩

/-- A pending transaction, a code word with nothing pending, and one with DEC scheduled. -/
theorem witness_StepRunsThePendingInstruction :
    ({ State.reset with inbox := [.txn (.hrd 3)] } : State).inbox = .txn (.hrd 3) :: [] ∧
    State.nextCodeWord (atCode Params.standard .brc0 I [I, I] I) = some (.cwBrc0M3 true) ∧
    (atCode Params.standard .brc0 I [I, I] I).inbox = [] ∧
    State.nextCodeWord { atCode Params.standard .brc0 I [I, I] I with inbox := [.dec, .reset] } =
      some (.cwBrc0M3 true) := by decide

theorem witness_IdleDecHasNoStep :
    idleFull.busy = false ∧ idleFull.inbox = [] ∧ ({ idleFull with inbox := [.dec] } : State).inbox = .dec :: [] := by
  decide

theorem witness_EveryStepKeepsTheInvariant : (atSign [O, O] 1).Inv ∧ ∃ t, step (atSign [O, O] 1) = .next t :=
  ⟨inv_atSign 1 (by decide) 0 (by decide) .sampleBoundary (by decide), ⟨_, rfl⟩⟩

/-- The default instance, and the smallest one. -/
theorem witness_ResetMeetsTheInvariant :
    Params.standard.Valid ∧
    Params.Valid { wCnt := 8, bitbufLen := 127, outCap := 1, elemW := 1, outW := 5, boundCheck := .perBit } := by decide

/-- Reached states: a running command inside a code, one that is complete, and one ended by an error. -/
theorem witness_ReachableStatesMeetTheSpecInvariants :
    (∃ s : State, s.Reachable ∧ s.busy = true ∧ s.phase = .code) ∧ (∃ s : State, s.Reachable ∧ s.complete = true) ∧
    ∃ s : State, s.Reachable ∧ s.err ≠ .noError := by
  refine ⟨⟨_, ⟨Params.standard, [.txn (.bwr 0 1), .txn (.hwr 1 2), .txn (.hwr 2 1), .txn (.hwr 0 0x80000000)], 5,
      by decide, rfl⟩, rfl, rfl⟩,
    ⟨_, ⟨Params.standard, [.txn (.hwr 0 0x80000000)], 2, by decide, rfl⟩, rfl⟩,
    ⟨_, ⟨Params.standard, [.txn (.hwr 0 0x80000005)], 1, by decide, rfl⟩, by decide⟩⟩

theorem witness_NoStepFaults : (atSign [O, O] 1).Inv ∧ (atSign [O, O] 1).busy = true :=
  ⟨inv_atSign 1 (by decide) 0 (by decide) .sampleBoundary (by decide), rfl⟩

/-- A command that a DEC step ends, and one that a reset ends. -/
theorem witness_GhostListKeepsEveryOutcome :
    (atSign [O, O] 0).busy = true ∧ get? (·.busy) (step (atSign [O, O] 0)) = some false ∧
    get? (fun t => (t.busy, t.ghost)) (step { atSign [O, O] 1 with inbox := [.reset] }) =
      some (false, [⟨0, 2, 1, .byReset⟩]) := by decide

theorem witness_ResetTransition : ({ atSign [O, O] 1 with inbox := [.reset] } : State).inbox = .reset :: [] := rfl

/-- A state that meets the invariant with CURSOR = 2, and one with CURSOR = 0. -/
theorem witness_ResultIsTheSignedCursor :
    State.Inv { atSign [O, O] 1 with cursor := 2 } ∧ (atSign [O, O] 1).cursor = 0 :=
  ⟨inv_atSign 1 (by decide) 2 (by decide) .sampleBoundary (by decide), rfl⟩

end Sys2Proof.Tests
end

namespace Sys2Proof.Machine

/-! SUPPORT. The invariant of the machine in two parts that a step checks apart: what the memories, the counts and the
bounds say in every state, and what the flags say in a state that is not running. -/

/-- The part of the invariant that does not depend on whether a command runs: the parameters, the memories, the widths
of the counts and the bounds on CURSOR and SAMPLES. -/
structure State.WellSized (s : State) : Prop where
  parValid : s.par.Valid
  bitsWf : Mem.wf s.bits
  outWf : Mem.wf s.out
  bitsIn : ∀ x ∈ s.bits, x.1 < s.par.bitbufLen ∧ Fits s.par.elemW x.2
  outIn : ∀ x ∈ s.out, x.1 < s.par.outCap ∧ Fits s.par.outW x.2
  bitCountFits : Fits s.par.wCnt s.bitCount
  noutFits : Fits s.par.wCnt s.nout
  cursorBound : s.cursor ≤ s.par.bitbufLen
  samplesBound : s.samples ≤ s.par.outCap

/-- The flags of a state in which no command runs (10_state.md R41.1, R41.3, R41.4). -/
structure State.Quiescent (s : State) : Prop where
  notBusy : s.busy = false
  phaseIdle : s.phase = .idle
  completeDone : s.complete = true → s.done = true ∧ s.err = .noError
  errDone : s.err ≠ .noError → s.done = true ∧ s.complete = false

theorem State.Inv.wellSized {s : State} (h : s.Inv) : s.WellSized := { h with }

theorem State.Inv.quiescent {s : State} (h : s.Inv) (idle : s.busy = false) : s.Quiescent where
  notBusy := idle
  phaseIdle := Decidable.not_not.1 fun hp => by simpa [idle] using h.busyPhase.2 hp
  completeDone := h.completeDone
  errDone he := ⟨(h.errDone he).1, (h.errDone he).2.1⟩

/-- The clauses of the invariant on a running command are void where none runs. -/
theorem State.WellSized.inv_of_quiescent {s : State} (h : s.WellSized) (q : s.Quiescent) : s.Inv := by
  obtain ⟨hb, hp, hc, he⟩ := q
  exact
    { h with
      busyPhase := by simp [hb, hp]
      notBusyAndDone := by simp [hb]
      completeDone := hc
      errDone := fun hne => ⟨(he hne).1, (he hne).2, hb⟩
      runningLevel := by simp [hb]
      runningCounts := by simp [hb]
      runningSamples := by simp [hb]
      codeSamples := by simp [hp]
      codeCursor := by simp [hp]
      signCursor := by simp [hp]
      perBitCursor := by simp [hb]
      codeNode := by simp [hp] }

theorem State.Inv.busy_of_phase {s : State} (h : s.Inv) (hp : s.phase ≠ .idle) : s.busy = true := h.busyPhase.2 hp

/-- A running command has no error yet (10_state.md R41.4). -/
theorem State.Inv.err_of_busy {s : State} (h : s.Inv) (hb : s.busy = true) : s.err = .noError :=
  Decidable.not_not.1 fun he => by simpa [hb] using (h.errDone he).2.2

/-- A running command is of a level with a table (10_state.md R41.6). -/
theorem State.Inv.level {s : State} (h : s.Inv) (hb : s.busy = true) : ∃ lv, Level.ofField s.stBrc = some lv :=
  Level.exists_of_le (h.runningLevel hb)

/-! ## What each transition keeps -/

/-- `finish` leaves a state in which no command runs, without an error (40_decode_operation.md R100). -/
theorem State.Inv.finish {s : State} (h : s.Inv) (hb : s.busy = true) (c : Bool) :
    State.Inv { State.finish c s with drawKey := s.drawKey + 1 } :=
  State.WellSized.inv_of_quiescent { h.wellSized with }
    { notBusy := rfl
      phaseIdle := rfl
      completeDone := fun _ => ⟨rfl, h.err_of_busy hb⟩
      errDone := fun he => absurd (h.err_of_busy hb) he }

/-- Raising an error leaves a state in which no command runs (60_exceptions.md R211). -/
theorem State.WellSized.inv_raiseError {s : State} (h : s.WellSized) (e : ErrCode) (k : Nat) :
    State.Inv { State.raiseError e s with drawKey := k } :=
  State.WellSized.inv_of_quiescent { h with }
    { notBusy := rfl
      phaseIdle := rfl
      completeDone := fun hc => absurd hc Bool.false_ne_true
      errDone := fun _ => ⟨rfl, rfl⟩ }

theorem State.Inv.start {s : State} (h : s.Inv) (b : BrcField) :
    State.Inv { State.start b s with drawKey := (State.start b s).drawKey + 1 } := by
  have latched : (State.latch b s).WellSized :=
    { h.wellSized with cursorBound := Nat.zero_le _, samplesBound := Nat.zero_le _ }
  rcases start_cases b s with ⟨-, e⟩ | ⟨-, -, e⟩ | ⟨hlv, hbits, hout, e⟩
  · exact e ▸ latched.inv_raiseError _ _
  · exact e ▸ latched.inv_raiseError _ _
  · rw [e]
    exact
      { latched with
        busyPhase := by simp
        notBusyAndDone := by simp
        completeDone := by simp
        errDone := by simp
        runningLevel := fun _ => hlv
        runningCounts := fun _ => ⟨hbits, hout⟩
        runningSamples := by simp
        codeSamples := by simp
        codeCursor := by simp
        signCursor := by simp
        perBitCursor := by simp
        codeNode := by simp }

/-- The sample-start step that reads a sign bit leads to the root of the tree (40_decode_operation.md R93, R104). -/
theorem State.Inv.readSign {s : State} (h : s.Inv) (hp : s.phase = .sign) (go : s.sampleStop = false) {b : Bool}
    (bit : s.readBit s.cursor = some b) :
    State.Inv { s with cursor := s.cursor + 1, signl := b, acc := 0, len := 0, phase := .code,
                       drawKey := s.drawKey + 1 } := by
  have hb : s.busy = true := h.busy_of_phase (by simp [hp])
  obtain ⟨hne, hcur⟩ : s.samples ≠ s.nout ∧ s.cursor < s.bitCount := by simpa [State.sampleStop] using go
  exact
    { h with
      cursorBound := (readBit_eq_some.1 bit).1
      busyPhase := by simp [hb]
      codeSamples := fun _ => lt_of_le_of_ne (h.runningSamples hb) hne
      codeCursor := fun _ => ⟨hcur, by simp⟩
      signCursor := by simp
      perBitCursor := fun _ _ => hcur
      codeNode := fun _ lv _ => isInternal_root lv }

/-- From an internal node the next node is (LEN + 1, 2·ACC + b): neither register wraps (41_code_tables.md R177). -/
theorem next_of_isInternal {s : State} {lv : Level} (node : isInternal lv s.len.toNat s.acc.toNat = true) (b : Bool) :
    s.nextLen.toNat = s.len.toNat + 1 ∧ (s.nextAcc b).toNat = 2 * s.acc.toNat + b.toNat := by
  obtain ⟨hlen, hacc, hlmax⟩ := isInternal_bounds node
  have hacc' : s.acc.toNat < 2 ^ 8 := hacc.trans_le (Nat.pow_le_pow_right (by omega) (by omega))
  exact ⟨nextLen_toNat (by omega), nextAcc_toNat hacc' b⟩

/-- In PER_BIT mode a code bit is read below BIT_COUNT only (40_decode_operation.md R107). -/
theorem cursor_lt_bitCount_of_not_exhausted {s : State} (go : s.exhausted = false)
    (perBit : s.par.boundCheck = .perBit) : s.cursor < s.bitCount := by
  simpa [State.exhausted, perBit] using go

/-- A code bit that completes no code word leads to an internal node (40_decode_operation.md R94, 41_code_tables.md
R176). -/
theorem State.Inv.takeCodeBit {s : State} (h : s.Inv) (hp : s.phase = .code) (go : s.exhausted = false) {b : Bool}
    {lv : Level} (bit : s.readBit s.cursor = some b) (level : Level.ofField s.stBrc = some lv)
    (noLeaf : matchCode lv s.nextLen.toNat (s.nextAcc b).toNat = none) :
    State.Inv { State.takeCodeBit b s with drawKey := s.drawKey + 1 } := by
  have node := h.codeNode hp lv level
  obtain ⟨hlen, hacc⟩ := next_of_isInternal node b
  obtain ⟨hslack, hread⟩ := h.codeCursor hp
  exact
    { h with
      cursorBound := (readBit_eq_some.1 bit).1
      codeCursor := fun _ => by
        simp only [State.takeCodeBit_cursor, State.takeCodeBit_bitCount, State.takeCodeBit_len, hlen]
        omega
      signCursor := by simp [hp]
      perBitCursor := fun _ => cursor_lt_bitCount_of_not_exhausted go
      codeNode := fun _ lv' level' => by
        obtain rfl : lv = lv' := Option.some.inj (level.symm.trans level')
        rw [hlen, hacc] at noLeaf
        simpa [hlen, hacc, noLeaf] using matchCode_isSome_or_isInternal node b }

/-- A code bit that completes a code word leads to the next sample start, with its output value written
(40_decode_operation.md R94, R106). -/
theorem State.Inv.completeCode {s : State} (h : s.Inv) (hp : s.phase = .code) (go : s.exhausted = false) {b : Bool}
    {lv : Level} {m : Nat} (bit : s.readBit s.cursor = some b) (level : Level.ofField s.stBrc = some lv)
    (leaf : matchCode lv s.nextLen.toNat (s.nextAcc b).toNat = some m) (room : s.samples < s.par.outCap) :
    State.Inv
      { State.takeCodeBit b s with
        out := Mem.write s.out s.samples (outValue lv m s.signl), samples := s.samples + 1, phase := .sign,
        drawKey := s.drawKey + 1 } := by
  have hb : s.busy = true := h.busy_of_phase (by simp [hp])
  obtain ⟨hlen, -, -⟩ := isInternal_bounds (h.codeNode hp lv level)
  obtain ⟨hslack, -⟩ := h.codeCursor hp
  obtain ⟨-, -, -, -, -, -, houtW⟩ := h.parValid
  have fits : Fits s.par.outW (outValue lv m s.signl) := calc
    outValue lv m s.signl < 2 ^ 5 := Nat.lt_succ_of_le (outValue_le (matchCode_lt leaf) _)
    _ ≤ 2 ^ s.par.outW := Nat.pow_le_pow_right (by omega) houtW
  exact
    { h with
      outWf := Mem.wf_write h.outWf _ _
      outIn := Mem.forall_mem_write h.outIn ⟨room, fits⟩
      cursorBound := (readBit_eq_some.1 bit).1
      samplesBound := room
      busyPhase := by simp [hb]
      runningSamples := fun _ => h.codeSamples hp
      codeSamples := by simp
      codeCursor := by simp
      signCursor := fun _ lv' level' => by
        obtain rfl : lv = lv' := Option.some.inj (level.symm.trans level')
        simp only [State.takeCodeBit_cursor, State.takeCodeBit_bitCount]
        omega
      perBitCursor := fun _ => cursor_lt_bitCount_of_not_exhausted go
      codeNode := by simp }

/-- Whatever an instruction does, it keeps the invariant. -/
theorem Effect.inv {s t : State} (e : Effect s t) (h : s.Inv) : t.Inv := by
  cases e with
  | same => exact h
  | reply v => exact { h with }
  | setBrc b idle => exact { h with }
  | setBitCount v idle fits =>
    exact State.WellSized.inv_of_quiescent { h.wellSized with bitCountFits := fits } { h.quiescent idle with }
  | setNout v idle fits =>
    exact State.WellSized.inv_of_quiescent { h.wellSized with noutFits := fits } { h.quiescent idle with }
  | writeBits i v idle index fits =>
    exact { h with bitsWf := Mem.wf_write h.bitsWf _ _, bitsIn := Mem.forall_mem_write h.bitsIn ⟨index, fits⟩ }
  | writeOut j v idle index fits =>
    exact { h with outWf := Mem.wf_write h.outWf _ _, outIn := Mem.forall_mem_write h.outIn ⟨index, fits⟩ }
  | start b idle => exact h.start b
  | code i lv b m next level bit leaf room =>
    obtain ⟨-, hp, go, -⟩ := nextCodeWord_some next
    exact h.completeCode hp go bit level leaf room

/-- A step of DEC keeps the invariant. -/
theorem State.Inv.decStep {s t : State} (h : s.Inv) (hs : s.decStep = .next t) : t.Inv := by
  rcases decStep_next hs with ⟨-, rfl⟩ | ⟨hb, hp, hs⟩ | ⟨hb, hp, hs⟩
  · exact h
  · rcases signStep_next hs with ⟨-, rfl⟩ | ⟨-, -, rfl⟩ | ⟨go, b, bit, rfl⟩
    · exact h.finish hb _
    · exact h.wellSized.inv_raiseError _ _
    · exact h.readSign hp go bit
  · rcases codeBitStep_next hs with ⟨-, rfl⟩ | ⟨-, -, rfl⟩ | ⟨go, b, lv, bit, level, ⟨noLeaf, rfl⟩ | ⟨m, leaf, hw⟩⟩
    · exact h.finish hb _
    · exact h.wellSized.inv_raiseError _ _
    · exact h.takeCodeBit hp go bit level noLeaf
    · obtain ⟨room, rfl⟩ := writeSample_next hw
      exact h.completeCode hp go bit level leaf room

/-- The reset state meets the invariant, whatever transitions are pending (10_state.md R42). -/
theorem inv_resetOf {p : Params} (hp : p.Valid) (events : List Event) :
    State.Inv { State.resetOf p with inbox := events } :=
  State.WellSized.inv_of_quiescent
    { parValid := hp
      bitsWf := (resetOf_mem_wf p).1
      outWf := (resetOf_mem_wf p).2
      bitsIn := by simp [State.resetOf]
      outIn := by simp [State.resetOf]
      bitCountFits := Nat.two_pow_pos _
      noutFits := Nat.two_pow_pos _
      cursorBound := Nat.zero_le _
      samplesBound := Nat.zero_le _ }
    { notBusy := rfl
      phaseIdle := rfl
      completeDone := by simp [State.resetOf]
      errDone := by simp [State.resetOf] }

theorem State.Inv.step {s t : State} (h : s.Inv) (hs : step s = .next t) : t.Inv := by
  have taken : ∀ rest, State.Inv { s with inbox := rest } := fun _ => { h with }
  rcases step_next hs with ⟨-, hs⟩ | ⟨rest, ⟨x, -, hs⟩ | ⟨-, hs⟩ | ⟨-, rfl⟩⟩
  · exact h.decStep hs
  · exact (exec_effect hs).inv (taken rest)
  · exact (taken rest).decStep hs
  · exact { inv_resetOf h.parValid rest with }

/-- Settles O45: each transition keeps the invariant, by the cases of `step_next`, `Effect` and the two DEC steps. -/
theorem everyStepKeepsTheInvariant : Obligations.EveryStepKeepsTheInvariant := fun _ _ h hs => h.step hs

/-! ## Reachable states -/

/-- A run keeps the invariant. -/
theorem State.Inv.run {s t : State} (h : s.Inv) {k : Nat} (hr : Host.Core.run core k s = .next t) : t.Inv := by
  induction k generalizing s with
  | zero =>
    cases hr
    exact h
  | succ k ih =>
    obtain ⟨s', hs, hr⟩ := run_succ_next hr
    exact ih (h.step hs) hr

theorem State.Reachable.inv {s : State} (h : s.Reachable) : s.Inv := by
  obtain ⟨p, events, k, hp, hr⟩ := h
  exact (inv_resetOf hp events).run hr

/-- No internal node is a code word (41_code_tables.md R172, R176). -/
theorem matchCode_of_isInternal {lv : Level} {len acc : Nat} (h : isInternal lv len acc = true) :
    matchCode lv len acc = none := by
  have key : ∀ x ∈ internalNodes lv, matchCode lv x.1 x.2 = none := by cases lv <;> decide
  exact key _ (isInternal_iff.1 h)

/-- The codes that STATUS.ERR shows are 0 to 3 (10_state.md R41.5). -/
theorem ErrCode.code_le (e : ErrCode) : e.code.toNat ≤ 3 := by cases e <;> decide

/-- After a DEC step of a running command, the step that ends it included, SAMPLES is at most NOUT (10_state.md
R41.7). -/
theorem State.Inv.samples_le_of_decStep {s t : State} (h : s.Inv) (hb : s.busy = true) (hs : s.decStep = .next t) :
    t.samples ≤ t.nout := by
  have before : s.samples ≤ s.nout := h.runningSamples hb
  rcases decStep_next hs with ⟨hidle, -⟩ | ⟨-, -, hs⟩ | ⟨-, hp, hs⟩
  · simp [hb] at hidle
  · rcases signStep_next hs with ⟨-, rfl⟩ | ⟨-, -, rfl⟩ | ⟨-, b, -, rfl⟩ <;> exact before
  · rcases codeBitStep_next hs with ⟨-, rfl⟩ | ⟨-, -, rfl⟩ | ⟨-, b, lv, -, -, ⟨-, rfl⟩ | ⟨m, -, hw⟩⟩
    · exact before
    · exact before
    · exact before
    · obtain ⟨-, rfl⟩ := writeSample_next hw
      exact h.codeSamples hp

/-- In PHASE = CODE the walk stands below LMAX and not at a code word (10_state.md R41.8). -/
theorem State.Inv.walk_of_code {s : State} (h : s.Inv) (hp : s.phase = .code) :
    ∃ lv, Level.ofField s.stBrc = some lv ∧ s.len.toNat < lv.lmax ∧ matchCode lv s.len.toNat s.acc.toNat = none := by
  obtain ⟨lv, level⟩ := h.level (h.busy_of_phase (by simp [hp]))
  have node := h.codeNode hp lv level
  exact ⟨lv, level, (isInternal_bounds node).1, matchCode_of_isInternal node⟩

/-- Settles O47: every reachable state meets the invariant, which says the points of 10_state.md R41. -/
theorem reachableStatesMeetTheSpecInvariants : Obligations.ReachableStatesMeetTheSpecInvariants := fun s hs =>
  have h := hs.inv
  ⟨h.busyPhase, h.notBusyAndDone, h.completeDone, h.errDone, s.err.code_le, h.runningLevel,
    fun hb => ⟨h.runningSamples hb, fun _ => h.samples_le_of_decStep hb⟩, h.walk_of_code⟩

/-! ## RESULT -/

theorem State.result_of_complete {s : State} (h : s.complete = true) : s.result = s.cursor := by
  simp [State.result, h]

theorem State.result_of_not_complete {s : State} (h : s.complete = false) :
    s.result = (2 ^ s.par.wCnt - s.cursor) % 2 ^ s.par.wCnt := by
  simp [State.result, h]

/-- With CURSOR = 0 both readings of RESULT are 0 (10_state.md R27). -/
theorem State.result_of_cursor_zero {s : State} (h : s.cursor = 0) : s.result = 0 := by
  cases hc : s.complete
  · rw [State.result_of_not_complete hc, h, Nat.sub_zero, Nat.mod_self]
  · rw [State.result_of_complete hc, h]

/-- CURSOR lies in the positive half of the W_CNT-bit two's complement range (00_scope.md R8). -/
theorem State.Inv.cursor_lt {s : State} (h : s.Inv) : s.cursor < 2 ^ (s.par.wCnt - 1) := by
  obtain ⟨-, -, hlen, -⟩ := h.parValid
  have := h.cursorBound
  have := Nat.two_pow_pos (s.par.wCnt - 1)
  omega

theorem signedOf_of_lt {w v : Nat} (h : v < 2 ^ (w - 1)) : signedOf w v = v := if_pos h

/-- The negation modulo 2^w of a number in the positive half reads as that number negated (00_scope.md R11). -/
theorem signedOf_neg {w v : Nat} (hw : 0 < w) (h : v < 2 ^ (w - 1)) :
    signedOf w ((2 ^ w - v) % 2 ^ w) = -(v : Int) := by
  have hpow : 2 ^ (w - 1) * 2 = 2 ^ w := Nat.two_pow_pred_mul_two hw
  rcases Nat.eq_zero_or_pos v with rfl | hv
  · rw [Nat.sub_zero, Nat.mod_self, signedOf_of_lt h]
    rfl
  · rw [Nat.mod_eq_of_lt (by omega), signedOf, if_neg (by omega), Nat.cast_sub (by omega)]
    push_cast
    omega

theorem State.Inv.signedOf_result {s : State} (h : s.Inv) :
    signedOf s.par.wCnt s.result = if s.complete then (s.cursor : Int) else -(s.cursor : Int) := by
  cases hc : s.complete
  · have hw : 0 < s.par.wCnt := Nat.lt_of_lt_of_le (by omega) h.parValid.1
    rw [State.result_of_not_complete hc, signedOf_neg hw h.cursor_lt]
    rfl
  · rw [State.result_of_complete hc, signedOf_of_lt h.cursor_lt]
    rfl

/-- Settles O52: RESULT by the cases of COMPLETE, its signed reading by `signedOf_result`. -/
theorem resultIsTheSignedCursor : Obligations.ResultIsTheSignedCursor :=
  ⟨fun _ => ⟨rfl, rfl⟩, fun _ => State.result_of_cursor_zero, fun _ => State.Inv.signedOf_result,
    fun _ => State.result_of_cursor_zero rfl, fun _ _ => rfl⟩

/-! ## Reset values -/

/-- STATUS at reset shows MODE alone, at bit 8 (10_state.md R24, R42). -/
theorem statusWord_resetOf (p : Params) :
    (State.resetOf p).statusWord.toNat = if p.boundCheck = .perBit then 256 else 0 := by
  have key : ∀ mode : Bool,
      (0#13 ++ (0 : BrcField) ++ 0#7 ++ BitVec.ofBool mode ++ 0#1 ++ ErrCode.noError.code ++ 0#1 ++
        BitVec.ofBool false ++ BitVec.ofBool false ++ BitVec.ofBool false).toNat = if mode then 256 else 0 := by
    decide
  exact (key (modeBit p)).trans (by simp [modeBit])

theorem readReg_resetOf (p : Params) (n : Nat) :
    (State.resetOf p).readReg n = if n = 3 ∧ p.boundCheck = .perBit then 256 else 0 := by
  match n with
  | 0 | 1 | 2 | 4 | 5 => simp [State.readReg, State.cmdWord, State.resetOf]
  | 3 => exact (statusWord_resetOf p).trans (by simp)
  | 6 => exact (State.result_of_cursor_zero (s := State.resetOf p) rfl).trans (by simp)
  | n + 7 => simp [State.readReg]

/-- Settles O50: each field of `State.resetOf` is its reset value, and `readReg_resetOf` says what the registers read. -/
theorem resetStateHoldsTheResetValues : Obligations.ResetStateHoldsTheResetValues := fun p =>
  ⟨rfl, rfl, rfl, rfl, rfl, rfl, rfl, rfl, rfl, rfl, rfl, rfl, rfl, rfl, fun _ => ⟨rfl, rfl⟩, readReg_resetOf p⟩

end Sys2Proof.Machine

namespace Sys2Proof.Machine

/-! SUPPORT. What each host transaction can do, which element a DEC step reads, and which transition a step runs. -/

/-! ## Host reads -/

theorem execBrd_next {i : Nat} {s t : State} (h : execBrd i s = .next t) :
    i < s.par.bitbufLen ∧ t = { s with reply := some (s.readBits i) } := by
  unfold execBrd at h
  split_ifs at h with hi
  exact ⟨hi, answer_next h⟩

theorem execOrd_next {j : Nat} {s t : State} (h : execOrd j s = .next t) :
    j < s.par.outCap ∧ t = { s with reply := some (s.readOut j) } := by
  unfold execOrd at h
  split_ifs at h with hj
  exact ⟨hj, answer_next h⟩

/-- A host read puts its value into the reply, and the value does not depend on the earlier reply (20_memory.md R60). -/
theorem hostRead_next {s t : State} {i : Instr} (read : ∃ n, i = .hrd n ∨ i = .brd n ∨ i = .ord n)
    (h : exec i s = .next t) :
    ∃ v, t = { s with reply := some v } ∧
      ∀ r, exec i { s with reply := r } = .next { s with reply := some v } := by
  obtain ⟨n, rfl | rfl | rfl⟩ := read
  · exact ⟨s.readReg n, answer_next h, fun _ => rfl⟩
  · obtain ⟨hn, ht⟩ := execBrd_next h
    exact ⟨s.readBits n, ht, fun _ => if_pos hn⟩
  · obtain ⟨hn, ht⟩ := execOrd_next h
    exact ⟨s.readOut n, ht, fun _ => if_pos hn⟩

theorem hostRead_frame {s t : State} {i : Instr} (read : ∃ n, i = .hrd n ∨ i = .brd n ∨ i = .ord n)
    (h : exec i s = .next t) : t = { s with reply := t.reply } := by
  obtain ⟨v, rfl, -⟩ := hostRead_next read h
  rfl

/-- Settles O20, by `hostRead_next`: the state after a read is the state before it with another reply. -/
theorem hostReadsAreIdempotent : Obligations.HostReadsAreIdempotent := fun s t i read h => by
  refine ⟨hostRead_frame read h, ?_⟩
  obtain ⟨v, rfl, again⟩ := hostRead_next read h
  exact again (some v)

/-! ## Host writes -/

/-- BWR of an element and value that exist is dropped while busy, and otherwise stores the value (42_host_interface.md
R197). -/
theorem execBwr_next {i v : Nat} {s t : State} (h : execBwr i v s = .next t) :
    i < s.par.bitbufLen ∧ Fits s.par.elemW v ∧
    ((s.busy = true ∧ t = s) ∨
     (s.busy = false ∧ t = { s with bits := Mem.write s.bits i v, drawKey := s.drawKey + 1 })) := by
  unfold execBwr at h
  split_ifs at h with hi hv hb
  · exact ⟨hi, hv, .inl ⟨hb, (Host.Outcome.next.inj h).symm⟩⟩
  · exact ⟨hi, hv, .inr ⟨by simpa using hb, commit_next h⟩⟩

/-- OWR of an element and value that exist is dropped while busy, and otherwise stores the value (42_host_interface.md
R199). -/
theorem execOwr_next {j v : Nat} {s t : State} (h : execOwr j v s = .next t) :
    j < s.par.outCap ∧ Fits s.par.outW v ∧
    ((s.busy = true ∧ t = s) ∨
     (s.busy = false ∧ t = { s with out := Mem.write s.out j v, drawKey := s.drawKey + 1 })) := by
  unfold execOwr at h
  split_ifs at h with hj hv hb
  · exact ⟨hj, hv, .inl ⟨hb, (Host.Outcome.next.inj h).symm⟩⟩
  · exact ⟨hj, hv, .inr ⟨by simpa using hb, commit_next h⟩⟩

/-- HWR of a register other than CMD changes its own count at most (42_host_interface.md R191). -/
theorem execHwr_frame {n v : Nat} {s t : State} (hn : n ≠ 0) (h : execHwr n v s = .next t) :
    t = { s with bitCount := t.bitCount, nout := t.nout, drawKey := t.drawKey } ∧
      (n ≠ 1 → t.bitCount = s.bitCount) ∧ (n ≠ 2 → t.nout = s.nout) := by
  obtain ⟨-, ⟨h0, -⟩ | ⟨rfl, -, rfl⟩ | ⟨rfl, -, rfl⟩ | ⟨-, rfl⟩⟩ := writeReg_next h
  · exact absurd h0 hn
  · exact ⟨rfl, fun h1 => absurd rfl h1, fun _ => rfl⟩
  · exact ⟨rfl, fun _ => rfl, fun h2 => absurd rfl h2⟩
  · exact ⟨rfl, fun _ => rfl, fun _ => rfl⟩

theorem execBwr_frame {i v : Nat} {s t : State} (h : execBwr i v s = .next t) :
    t = { s with bits := t.bits, drawKey := t.drawKey } ∧
      ∀ a, a ≠ i → Mem.read? t.bits a = Mem.read? s.bits a := by
  obtain ⟨-, -, ⟨-, rfl⟩ | ⟨-, rfl⟩⟩ := execBwr_next h
  · exact ⟨rfl, fun _ _ => rfl⟩
  · exact ⟨rfl, fun _ => Mem.read?_write_of_ne⟩

theorem execOwr_frame {j v : Nat} {s t : State} (h : execOwr j v s = .next t) :
    t = { s with out := t.out, drawKey := t.drawKey } ∧
      ∀ a, a ≠ j → Mem.read? t.out a = Mem.read? s.out a := by
  obtain ⟨-, -, ⟨-, rfl⟩ | ⟨-, rfl⟩⟩ := execOwr_next h
  · exact ⟨rfl, fun _ _ => rfl⟩
  · exact ⟨rfl, fun _ => Mem.read?_write_of_ne⟩

/-- Settles O23, one frame lemma per kind of transaction. -/
theorem hostTransactionFrame : Obligations.HostTransactionFrame := fun _ _ =>
  ⟨fun _ _ => execHwr_frame,
    fun k h => by
      rcases h with h | h | h
      · exact hostRead_frame ⟨k, .inl rfl⟩ h
      · exact hostRead_frame ⟨k, .inr (.inl rfl)⟩ h
      · exact hostRead_frame ⟨k, .inr (.inr rfl)⟩ h,
    fun _ _ => execBwr_frame, fun _ _ => execOwr_frame⟩

/-! ## The element that DEC reads -/

theorem sampleStop_eq_false {s : State} : s.sampleStop = false ↔ s.samples ≠ s.nout ∧ s.cursor < s.bitCount := by
  simp [State.sampleStop]

/-- A DEC step that advances CURSOR reads the element there: it is a sample start that does not stop, or a code bit that
is not exhausted (40_decode_operation.md R93, R94). -/
theorem decStep_read {s t : State} (hs : s.decStep = .next t) (advance : t.cursor = s.cursor + 1) :
    (∃ b, s.readBit s.cursor = some b) ∧
      ((s.phase = .sign ∧ s.sampleStop = false) ∨ (s.phase = .code ∧ s.exhausted = false)) := by
  have moved : t.cursor ≠ s.cursor := by omega
  rcases decStep_next hs with ⟨-, rfl⟩ | ⟨-, hp, hs⟩ | ⟨-, hp, hs⟩
  · exact absurd rfl moved
  · rcases signStep_next hs with ⟨-, rfl⟩ | ⟨-, -, rfl⟩ | ⟨go, b, bit, -⟩
    · exact absurd rfl moved
    · exact absurd rfl moved
    · exact ⟨⟨b, bit⟩, .inl ⟨hp, go⟩⟩
  · rcases codeBitStep_next hs with ⟨-, rfl⟩ | ⟨-, -, rfl⟩ | ⟨go, b, -, bit, -⟩
    · exact absurd rfl moved
    · exact absurd rfl moved
    · exact ⟨⟨b, bit⟩, .inr ⟨hp, go⟩⟩

/-- Inside a code DEC stands below BIT_COUNT + LMAX: at most LEN < LMAX elements at or beyond BIT_COUNT have been read
(40_decode_operation.md R106). -/
theorem State.Inv.cursor_lt_of_code {s : State} (h : s.Inv) (hp : s.phase = .code) {lv : Level}
    (level : Level.ofField s.stBrc = some lv) : s.cursor < s.bitCount + lv.lmax := by
  obtain ⟨slack, -⟩ := h.codeCursor hp
  obtain ⟨hlen, -, -⟩ := isInternal_bounds (h.codeNode hp lv level)
  omega

/-- Settles O41, by the two kinds of reading DEC step: a sample start reads below BIT_COUNT in either mode, and a code bit
within the bounds of the walk and of the exhaustion test. -/
theorem readsStayWithinTheirBounds : Obligations.ReadsStayWithinTheirBounds := fun s t lv h _ level hs advance => by
  obtain ⟨⟨b, bit⟩, reading⟩ := decStep_read hs advance
  refine ⟨(readBit_eq_some.1 bit).1, ?_⟩
  rcases reading with ⟨-, go⟩ | ⟨hp, go⟩
  · obtain ⟨-, below⟩ := sampleStop_eq_false.1 go
    exact ⟨Nat.lt_add_right _ below, fun _ => below⟩
  · exact ⟨h.cursor_lt_of_code hp level, cursor_lt_bitCount_of_not_exhausted go⟩

/-! ## The transition that a step runs -/

theorem step_of_inbox_nil {s : State} (h : s.inbox = []) : step s = s.decStep := by
  simp [step, State.turn, h]

theorem step_of_inbox_cons {s : State} {e : Event} {rest : List Event} (h : s.inbox = e :: rest) :
    step s = State.perform e { s with inbox := rest } := by
  simp [step, State.turn, h]

/-- Where the bit at CURSOR completes a code word, the DEC step is that instruction (40_decode_operation.md R94). -/
theorem decStep_of_nextCodeWord {s : State} {i : Instr} (h : s.nextCodeWord = some i) : s.decStep = exec i s := by
  obtain ⟨hb, hp, -⟩ := nextCodeWord_some h
  simp [State.decStep, hb, hp, h]

/-- Settles O43, by the pending transition; the next code word does not depend on what is pending. -/
theorem stepRunsThePendingInstruction : Obligations.StepRunsThePendingInstruction :=
  ⟨fun _ _ _ hin => step_of_inbox_cons hin,
    fun _ _ hi =>
      ⟨fun hin => (step_of_inbox_nil hin).trans (decStep_of_nextCodeWord hi),
        fun _ hin => (step_of_inbox_cons hin).trans (decStep_of_nextCodeWord hi)⟩⟩

end Sys2Proof.Machine

namespace Sys2Proof.Machine

/-! SUPPORT. The encodings: the code words of a table in the walk of its tree, the decoder of symbols and of command
words, and the DEC steps over one whole symbol. -/

/-! ## The value of a code string -/

theorem val_concat (c : List Bool) (b : Bool) : val (c ++ [b]) = 2 * val c + b.toNat := by
  simp [val, valFrom_append]

/-- Of code strings of one length, the value names the string (00_scope.md R10). -/
theorem valFrom_injective {c d : List Bool} (hl : c.length = d.length) {x y : Nat} (h : valFrom x c = valFrom y d) :
    x = y ∧ c = d := by
  induction c generalizing d x y with
  | nil =>
    obtain rfl := List.length_eq_zero_iff.1 hl.symm
    exact ⟨h, rfl⟩
  | cons b c ih =>
    obtain ⟨b', d, rfl⟩ := List.exists_cons_of_length_eq_add_one hl.symm
    obtain ⟨hxy, rfl⟩ := ih (Nat.succ.inj hl) h
    have hb : b.toNat < 2 := b.toNat_lt
    have hb' : b'.toNat < 2 := b'.toNat_lt
    have bit : ∀ b b' : Bool, b.toNat = b'.toNat → b = b' := by decide
    obtain rfl : b = b' := bit b b' (by omega)
    exact ⟨by omega, rfl⟩

theorem val_injective {c d : List Bool} (hl : c.length = d.length) (h : val c = val d) : c = d :=
  (valFrom_injective hl h).2

/-! ## The nodes on the way to a code word -/

/-- The matcher gives each code word of the table its magnitude (41_code_tables.md R175). -/
theorem matchCode_of_table {lv : Level} {m : Nat} {code : List Bool} (h : lv.table[m]? = some code) :
    matchCode lv code.length (val code) = some m := by
  have key : ∀ x ∈ lv.table.zipIdx, matchCode lv x.1.length (val x.1) = some x.2 := by cases lv <;> decide
  exact key (code, m) (List.mk_mem_zipIdx_iff_getElem?.2 h)

/-- A proper front part of a code word is an internal node (41_code_tables.md R176). -/
theorem isInternal_of_table {lv : Level} {m : Nat} {pre suf : List Bool} (h : lv.table[m]? = some (pre ++ suf))
    (hs : suf ≠ []) : isInternal lv pre.length (val pre) = true := by
  simp only [isInternal, List.any_eq_true, Bool.and_eq_true, decide_eq_true_eq]
  exact ⟨pre ++ suf, List.mem_of_getElem? h, by simpa [List.length_pos_iff] using hs, by simp⟩

/-- The root is no leaf, so no code word is empty. -/
theorem code_ne_nil {lv : Level} {m : Nat} {code : List Bool} (h : lv.table[m]? = some code) : code ≠ [] := by
  rintro rfl
  exact Option.some_ne_none m ((matchCode_of_table h).symm.trans (matchCode_of_isInternal (isInternal_root lv)))

/-- A code word that begins with a code word is that code word (41_code_tables.md R172). -/
theorem magnitude_eq_of_prefix {lv : Level} {m m' : Nat} {code code' : List Bool} (h : lv.table[m]? = some code)
    (h' : lv.table[m']? = some code') (hp : code <+: code') : m' = m := by
  obtain ⟨suf, rfl⟩ := hp
  have leaf := matchCode_of_table h
  by_cases hs : suf = []
  · have leaf' := matchCode_of_table h'
    rw [hs, List.append_nil, leaf] at leaf'
    exact (Option.some.inj leaf').symm
  · exact absurd (leaf.symm.trans (matchCode_of_isInternal (isInternal_of_table h' hs))) (Option.some_ne_none m)

/-- From an internal node, every string of bits that reaches down to LMAX passes a code word (41_code_tables.md
R173). -/
theorem exists_code_prefix {lv : Level} {pre bits : List Bool} (node : isInternal lv pre.length (val pre) = true)
    (hl : lv.lmax ≤ pre.length + bits.length) :
    ∃ (m : Nat) (code : List Bool), lv.table[m]? = some code ∧ code <+: pre ++ bits := by
  induction bits generalizing pre with
  | nil =>
    obtain ⟨hlen, -, -⟩ := isInternal_bounds node
    exact absurd (hl.trans_lt hlen) (lt_irrefl _)
  | cons b bits ih =>
    rcases matchCode_isSome_or_isInternal node b with leaf | node'
    · obtain ⟨m, hm⟩ := Option.isSome_iff_exists.1 leaf
      obtain ⟨code, hc, hlen, hval⟩ := matchCode_some hm
      obtain rfl : code = pre ++ [b] := val_injective (by simpa using hlen) (hval.trans (val_concat pre b).symm)
      exact ⟨m, _, hc, bits, by simp⟩
    · have below := ih (pre := pre ++ [b]) (by simpa [val_concat] using node') (by simp at hl ⊢; omega)
      simpa using below

/-- Settles O3: the walk from the root passes a code word, and of two that begin one string the shorter begins the
other. -/
theorem everyBitStringBeginsWithOneCodeWord : Obligations.EveryBitStringBeginsWithOneCodeWord := fun lv bits hl => by
  obtain ⟨m, code, hc, hp⟩ := exists_code_prefix (pre := []) (bits := bits) (isInternal_root lv) (by simp [hl])
  refine ⟨m, code, hc, hp, fun m' code' hc' hp' => ?_⟩
  rcases List.prefix_or_prefix_of_prefix hp hp' with h | h
  · exact magnitude_eq_of_prefix hc hc' h
  · exact (magnitude_eq_of_prefix hc' hc h).symm

/-! ## The decoder of symbols -/

theorem exists_row {lv : Level} {m : Nat} {code : List Bool} (h : lv.table[m]? = some code) (sign : Bool) :
    ∃ i, codeInstr lv m sign = some i :=
  Option.isSome_iff_exists.1
    (codeInstr_isSome (by simpa using (List.getElem?_eq_some_iff.1 h).1) sign)

/-- The walk that stands inside a code word goes on to its end and no further (30_encoding.md R78). -/
theorem decodeWalk_of_table {lv : Level} {m : Nat} {sign : Bool} {i : Instr} {pre suf : List Bool}
    (row : codeInstr lv m sign = some i) (h : lv.table[m]? = some (pre ++ suf)) (hs : suf ≠ []) (rest : List Bool) :
    decodeWalk lv sign pre.length (val pre) (suf ++ rest) = .ok (i, rest) := by
  induction suf generalizing pre with
  | nil => exact absurd rfl hs
  | cons b suf ih =>
    have h' : lv.table[m]? = some ((pre ++ [b]) ++ suf) := by simpa using h
    by_cases hsuf : suf = []
    · subst hsuf
      have leaf : matchCode lv (pre.length + 1) (2 * val pre + b.toNat) = some m := by
        simpa [val_concat] using matchCode_of_table h
      simp [decodeWalk, leaf, row]
    · have node : matchCode lv (pre.length + 1) (2 * val pre + b.toNat) = none := by
        simpa [val_concat] using matchCode_of_isInternal (isInternal_of_table h' hsuf)
      simpa [decodeWalk, node, val_concat] using ih h' hsuf

/-- A symbol at the head of the bits is decoded to its row, and the bits after it are left. -/
theorem decodeSymbol_of_table {lv : Level} {m : Nat} {sign : Bool} {i : Instr} {code : List Bool}
    (row : codeInstr lv m sign = some i) (h : lv.table[m]? = some code) (rest : List Bool) :
    decodeSymbol lv.field (sign :: (code ++ rest)) = .ok (i, rest) := by
  simpa [decodeSymbol, val] using decodeWalk_of_table (pre := []) row h (code_ne_nil h) rest

/-- A reserved level decodes no bits (30_encoding.md R72). -/
theorem decodeSymbol_of_reserved {b : BrcField} (h : Level.ofField b = none) (bits : List Bool) :
    decodeSymbol b bits = .error .reservedLevel := by
  simp [decodeSymbol, h]

/-- Settles O2, by the walk from the root. -/
theorem symbolDecodingStopsAtItsCodeWord : Obligations.SymbolDecodingStopsAtItsCodeWord :=
  fun _ _ _ sign rest h => by
    obtain ⟨i, row⟩ := exists_row h sign
    exact ⟨i, row, decodeSymbol_of_table row h rest⟩

/-! ## Decoding the encoding -/

/-- A code-word row is encoded as its sign bit and its code word, under its level's field (30_encoding.md R74). -/
theorem encode_of_codeWord {i : Instr} {lv : Level} {m : Nat} {sign : Bool} (h : i.codeWord = some (lv, m, sign)) :
    codeInstr lv m sign = some i ∧
      ∃ code, lv.table[m]? = some code ∧ encode i = .symbol lv.field (sign :: code) := by
  cases i <;> simp only [Instr.codeWord, Option.some.injEq, Prod.mk.injEq, reduceCtorEq] at h <;>
    (obtain ⟨rfl, rfl, rfl⟩ := h; exact ⟨rfl, _, rfl, rfl⟩)

theorem decode_encode_of_codeWord {i : Instr} {lv : Level} {m : Nat} {sign : Bool}
    (h : i.codeWord = some (lv, m, sign)) : decode (encode i) = .ok i := by
  obtain ⟨row, code, hc, he⟩ := encode_of_codeWord h
  have decoded : decodeSymbol lv.field (sign :: code) = .ok (i, []) := by
    simpa using decodeSymbol_of_table row hc []
  simp [he, decode, decoded]

/-- A value written to any other register than CMD is no command word (30_encoding.md R70). -/
theorem decodeTxn_hwr_of_ne {n : Nat} (hn : n ≠ 0) (v : Nat) : decodeTxn (.hwr n v) = .hwr n v := by
  simp [decodeTxn, hn]

/-- A CMD.SET word, with START and the reserved bits 0, is the number of its BRC field (30_encoding.md R71). -/
theorem decode_encode_cmdSet (brc : BrcField) : decode (encode (.cmdSet brc)) = .ok (.cmdSet brc) := by
  have key : ∀ b : BrcField, decodeTxn (.hwr 0 b.toNat) = .cmdSet b := by decide
  exact congrArg Except.ok (key brc)

/-- Settles O1: a code word by the walk of its table, a command word by its bits, and every other transaction as it
stands. -/
theorem decodeOfEncodeIsTheInstruction : Obligations.DecodeOfEncodeIsTheInstruction := fun p i wf => by
  rcases hc : i.codeWord with _ | ⟨lv, m, sign⟩
  · cases i with
    | cmdSet brc => exact decode_encode_cmdSet brc
    | hwr n v =>
      have hn : n ≠ 0 := fun hn => by simp [Instr.WF, hn] at wf
      exact congrArg Except.ok (decodeTxn_hwr_of_ne hn v)
    | hrd | bwr | brd | owr | ord => rfl
    | decodeBrc0 | decodeBrc1 | decodeBrc2 | decodeBrc3 | decodeBrc4 | decodeBrc5 | decodeBrc6 | decodeBrc7 => rfl
    | _ => cases hc
  · exact decode_encode_of_codeWord hc

/-- Settles O6: the words by evaluation, and the reserved levels because they select no table. -/
theorem wordsOfTheSpecDecode : Obligations.WordsOfTheSpecDecode := by
  refine ⟨by decide, by decide, by decide, rfl, rfl, fun b hb => decodeSymbol_of_reserved ?_⟩
  revert b
  decide

/-! ## The command word -/

/-- Bits 31 and 2 to 0 alone select the operation (30_encoding.md R71, R73). -/
theorem decodeCmd_congr {w w' : CmdWord} (start : w.getLsbD 31 = w'.getLsbD 31)
    (brc : w.extractLsb' 0 3 = w'.extractLsb' 0 3) : decodeCmd w = decodeCmd w' := by
  simp only [decodeCmd, start, brc]

/-- A 32-bit write of register 0 runs the command word that it is (42_host_interface.md R192). -/
theorem exec_hwr_zero (w : CmdWord) (s : State) :
    exec (.hwr 0 w.toNat) s = State.writeCmd (w.getLsbD 31) (w.extractLsb' 0 3) s := by
  have fits : regValueFits s.par 0 w.toNat = true := decide_eq_true w.isLt
  show State.writeReg 0 w.toNat s = _
  simp [State.writeReg, fits]

/-- A command word is never refused: it is dropped, stored, or a START (42_host_interface.md R191, R192). -/
theorem writeCmd_isNext (start : Bool) (brc : BrcField) (s : State) :
    ∃ t, State.writeCmd start brc s = .next t := by
  unfold State.writeCmd
  split_ifs <;> exact ⟨_, rfl⟩

/-- CMD reads as its BRC field, all other bits 0 (10_state.md R21). -/
theorem readReg_zero (s : State) : s.readReg 0 = s.cmdBrc.toNat :=
  (BitVec.toNat_append 0#29 s.cmdBrc).trans (by simp)

/-- Settles O7: the operation and the write depend on bit 31 and bits 2 to 0 alone, and CMD reads below 8. -/
theorem reservedCommandBitsAreIgnored : Obligations.ReservedCommandBitsAreIgnored := by
  refine ⟨fun s w w' start brc => ⟨decodeCmd_congr start brc, ?_, ?_⟩, fun s k hk => ?_⟩
  · rw [exec_hwr_zero, exec_hwr_zero, start, brc]
  · rw [exec_hwr_zero]
    exact writeCmd_isNext _ _ s
  · have small : s.readReg 0 < 2 ^ k := calc
      s.readReg 0 = s.cmdBrc.toNat := readReg_zero s
      _ < 2 ^ 3 := s.cmdBrc.isLt
      _ ≤ 2 ^ k := Nat.pow_le_pow_right (by omega) hk
    rw [Nat.div_eq_of_lt small]

/-! ## The DEC steps over one symbol -/

/-- The state of a command that began a sample in `s` and has read the sign bit and the bits `pre` of its code
(40_decode_operation.md R93, R94). -/
def State.inCode (s : State) (sign : Bool) (pre : List Bool) : State :=
  { s with
    cursor := s.cursor + (pre.length + 1), signl := sign, acc := BitVec.ofNat 9 (val pre),
    len := BitVec.ofNat 4 pre.length, phase := .code, drawKey := s.drawKey + (pre.length + 1) }

/-- `s` at the next sample start, after a symbol with output value `v` (40_decode_operation.md R94). -/
def State.afterSymbol (s : State) (sign : Bool) (code : List Bool) (v : Nat) : State :=
  { s.inCode sign code with out := Mem.write s.out s.samples v, samples := s.samples + 1, phase := .sign }

/-- A written BITS element is read as the bit that it stands for (20_memory.md R53). -/
theorem readBit_of_read? {s : State} {i v : Nat} {b : Bool} (hi : i < s.par.bitbufLen)
    (written : Mem.read? s.bits i = some v) (hb : decide (v ≠ 0) = b) : s.readBit i = some b :=
  readBit_eq_some.2 ⟨hi, by rw [readBits_of_read? written, hb]⟩

/-- Below BIT_COUNT the code-bit step is not exhausted, in either mode. -/
theorem exhausted_eq_false {s : State} (h : s.cursor < s.bitCount) : s.exhausted = false := by
  simp [State.exhausted, h]

/-- A sample start that does not stop reads the sign bit (40_decode_operation.md R93). -/
theorem signStep_of_readBit {s : State} {b : Bool} (go : s.sampleStop = false) (bit : s.readBit s.cursor = some b) :
    s.signStep = .next (s.inCode b []) := by
  simp [State.signStep, go, bit, State.commit, State.inCode, val]

/-- A code bit at an inner node only moves the walk (40_decode_operation.md R94). -/
theorem codeBitStep_of_node {s : State} {b : Bool} {lv : Level} (go : s.exhausted = false)
    (bit : s.readBit s.cursor = some b) (level : Level.ofField s.stBrc = some lv)
    (node : matchCode lv s.nextLen.toNat (s.nextAcc b).toNat = none) :
    s.codeBitStep = State.commit (State.takeCodeBit b s) := by
  simp [State.codeBitStep, go, bit, level, node]

/-- A code bit at a leaf writes the sample (40_decode_operation.md R94). -/
theorem codeBitStep_of_leaf {s : State} {b : Bool} {lv : Level} {m : Nat} (go : s.exhausted = false)
    (bit : s.readBit s.cursor = some b) (level : Level.ofField s.stBrc = some lv)
    (leaf : matchCode lv s.nextLen.toNat (s.nextAcc b).toNat = some m) :
    s.codeBitStep = State.writeSample (outValue lv m s.signl) (State.takeCodeBit b s) := by
  simp [State.codeBitStep, go, bit, level, leaf]

/-- At an internal node LEN and ACC hold the node, without wrapping (41_code_tables.md R177). -/
theorem toNat_len_acc_inCode {lv : Level} {pre : List Bool} (node : isInternal lv pre.length (val pre) = true)
    (s : State) (sign : Bool) :
    (s.inCode sign pre).len.toNat = pre.length ∧ (s.inCode sign pre).acc.toNat = val pre := by
  obtain ⟨hlen, hval, hlmax⟩ := isInternal_bounds node
  have hval' : val pre < 2 ^ 9 := hval.trans_le (Nat.pow_le_pow_right (by omega) (by omega))
  exact ⟨Nat.mod_eq_of_lt (by omega), Nat.mod_eq_of_lt hval'⟩

/-- The node that the next code bit leads to, as the matcher reads it (40_decode_operation.md R110). -/
theorem toNat_next_inCode {lv : Level} {pre : List Bool} (node : isInternal lv pre.length (val pre) = true)
    (s : State) (sign b : Bool) :
    (s.inCode sign pre).nextLen.toNat = (pre ++ [b]).length ∧
      ((s.inCode sign pre).nextAcc b).toNat = val (pre ++ [b]) := by
  obtain ⟨hlen, hacc⟩ := toNat_len_acc_inCode node s sign
  obtain ⟨hlen', hacc'⟩ :=
    next_of_isInternal (s := s.inCode sign pre) (lv := lv) (by rw [hlen, hacc]; exact node) b
  exact ⟨by rw [hlen', hlen, List.length_append, List.length_singleton], by rw [hacc', hacc, val_concat]⟩

/-- Taking a code bit inside a symbol reads one bit more of it. -/
theorem takeCodeBit_inCode {lv : Level} {pre : List Bool} (node : isInternal lv pre.length (val pre) = true)
    (s : State) (sign b : Bool) :
    { State.takeCodeBit b (s.inCode sign pre) with drawKey := (s.inCode sign pre).drawKey + 1 } =
      s.inCode sign (pre ++ [b]) := by
  obtain ⟨hlen, hacc⟩ := toNat_next_inCode node s sign b
  have len : (s.inCode sign pre).nextLen = BitVec.ofNat 4 (pre ++ [b]).length := by
    rw [← hlen, BitVec.ofNat_toNat, BitVec.setWidth_eq]
  have acc : (s.inCode sign pre).nextAcc b = BitVec.ofNat 9 (val (pre ++ [b])) := by
    rw [← hacc, BitVec.ofNat_toNat, BitVec.setWidth_eq]
  rw [State.takeCodeBit, len, acc]
  simp [State.inCode, Nat.add_assoc]

/-- A running command of level `lv`, with no transition pending, that has `bits` before it: they are written at CURSOR,
CURSOR + 1, ..., all within BIT_COUNT. -/
structure State.FacesBits (s : State) (lv : Level) (bits : List Bool) : Prop where
  running : s.busy = true
  quiet : s.inbox = []
  level : Level.ofField s.stBrc = some lv
  within : s.cursor + bits.length ≤ s.bitCount
  inMemory : s.bitCount ≤ s.par.bitbufLen
  written : ∀ k b, bits[k]? = some b → ∃ v, Mem.read? s.bits (s.cursor + k) = some v ∧ decide (v ≠ 0) = b

/-- The first of the bits is the one at CURSOR, below BIT_COUNT. -/
theorem State.FacesBits.head {s : State} {lv : Level} {b : Bool} {bits : List Bool} (h : s.FacesBits lv (b :: bits)) :
    s.cursor < s.bitCount ∧ s.readBit s.cursor = some b := by
  obtain ⟨v, hv, hb⟩ := h.written 0 b rfl
  have below : s.cursor < s.bitCount := (Nat.lt_add_of_pos_right (Nat.succ_pos _)).trans_le h.within
  exact ⟨below, readBit_of_read? (below.trans_le h.inMemory) hv hb⟩

/-- Where the sign bit and a part of the code are read, the rest of the symbol lies ahead. -/
theorem State.FacesBits.inCode {s : State} {lv : Level} {sign : Bool} {pre suf : List Bool}
    (h : s.FacesBits lv (sign :: (pre ++ suf))) : (s.inCode sign pre).FacesBits lv suf :=
  { h with
    within := by
      have whole : s.cursor + (pre.length + suf.length + 1) ≤ s.bitCount := by simpa using h.within
      show s.cursor + (pre.length + 1) + suf.length ≤ s.bitCount
      omega
    written := fun k b hk => by
      have ahead : (sign :: (pre ++ suf))[pre.length + 1 + k]? = some b := by
        rw [Nat.add_right_comm, List.getElem?_cons_succ, List.getElem?_append_right (Nat.le_add_right _ _),
          Nat.add_sub_cancel_left, hk]
      simpa [State.inCode, Nat.add_assoc] using h.written _ b ahead }

/-- A step inside a symbol, before the last bit of its code. -/
theorem step_inCode_of_node {s : State} {lv : Level} {m : Nat} {sign b : Bool} {pre suf : List Bool}
    (h : s.FacesBits lv (sign :: (pre ++ b :: suf))) (table : lv.table[m]? = some (pre ++ b :: suf)) (hs : suf ≠ []) :
    step (s.inCode sign pre) = .next (s.inCode sign (pre ++ [b])) := by
  have node := isInternal_of_table table (List.cons_ne_nil b suf)
  have next : isInternal lv (pre ++ [b]).length (val (pre ++ [b])) = true :=
    isInternal_of_table (by simpa using table) hs
  obtain ⟨hlen, hacc⟩ := toNat_next_inCode node s sign b
  obtain ⟨below, bit⟩ := h.inCode.head
  calc step (s.inCode sign pre)
      = (s.inCode sign pre).decStep := step_of_inbox_nil h.quiet
    _ = (s.inCode sign pre).codeBitStep := decStep_of_code h.running rfl
    _ = State.commit (State.takeCodeBit b (s.inCode sign pre)) :=
        codeBitStep_of_node (exhausted_eq_false below) bit h.level
          (by rw [hlen, hacc]; exact matchCode_of_isInternal next)
    _ = .next (s.inCode sign (pre ++ [b])) := congrArg _ (takeCodeBit_inCode node s sign b)

/-- The step that completes a symbol, at the last bit of its code. -/
theorem step_inCode_of_leaf {s : State} {lv : Level} {m : Nat} {sign b : Bool} {pre : List Bool}
    (h : s.FacesBits lv (sign :: (pre ++ [b]))) (table : lv.table[m]? = some (pre ++ [b]))
    (room : s.samples < s.par.outCap) :
    step (s.inCode sign pre) = .next (s.afterSymbol sign (pre ++ [b]) (outValue lv m sign)) := by
  have node := isInternal_of_table table (List.cons_ne_nil b [])
  obtain ⟨hlen, hacc⟩ := toNat_next_inCode node s sign b
  obtain ⟨below, bit⟩ := h.inCode.head
  calc step (s.inCode sign pre)
      = (s.inCode sign pre).decStep := step_of_inbox_nil h.quiet
    _ = (s.inCode sign pre).codeBitStep := decStep_of_code h.running rfl
    _ = State.writeSample (outValue lv m sign) (State.takeCodeBit b (s.inCode sign pre)) :=
        codeBitStep_of_leaf (exhausted_eq_false below) bit h.level
          (by rw [hlen, hacc]; exact matchCode_of_table table)
    _ = .next (s.afterSymbol sign (pre ++ [b]) (outValue lv m sign)) := by
        rw [State.afterSymbol, ← takeCodeBit_inCode node]
        exact if_pos room

/-- From inside a symbol, the machine takes one step for each bit of the code that is left. -/
theorem run_inCode {s : State} {lv : Level} {m : Nat} {sign : Bool} {pre suf : List Bool}
    (h : s.FacesBits lv (sign :: (pre ++ suf))) (table : lv.table[m]? = some (pre ++ suf)) (hs : suf ≠ [])
    (room : s.samples < s.par.outCap) :
    Host.Core.run core suf.length (s.inCode sign pre) =
      .next (s.afterSymbol sign (pre ++ suf) (outValue lv m sign)) := by
  induction suf generalizing pre with
  | nil => exact absurd rfl hs
  | cons b suf ih =>
    by_cases hsuf : suf = []
    · subst hsuf
      exact run_succ_of_next (step_inCode_of_leaf h table room)
    · rw [List.length_cons, run_succ_of_next (step_inCode_of_node h table hsuf)]
      simpa using ih (pre := pre ++ [b]) (by simpa using h) (by simpa using table) hsuf

/-- Settles O33: one step for the sign bit, then one for each bit of the code. -/
theorem symbolTakesOneStepPerBit : Obligations.SymbolTakesOneStepPerBit := by
  intro s lv m code sign table level busy phase quiet unfinished room within inMemory written
  have h : s.FacesBits lv (sign :: code) := ⟨busy, quiet, level, within, inMemory, written⟩
  obtain ⟨below, bit⟩ := h.head
  have first : step s = .next (s.inCode sign []) := calc
    step s = s.decStep := step_of_inbox_nil quiet
    _ = s.signStep := decStep_of_sign busy phase
    _ = .next (s.inCode sign []) := signStep_of_readBit (sampleStop_eq_false.2 ⟨unfinished, below⟩) bit
  rw [run_succ_of_next first, run_inCode (pre := []) h table (code_ne_nil table) room]
  simp [State.afterSymbol, State.inCode, outValue, phase]

end Sys2Proof.Machine

namespace Sys2Proof

/-! SUPPORT. The course of a command: what a command word starts, the moves of a running DEC step, and how a command
ends. -/

/-! ## Command words -/

/-- The command rows: whether START is set, and the BRC field (30_encoding.md R71); none for the other rows. -/
def Instr.command : Instr → Option (Bool × BrcField)
  | .decodeBrc0 => some (true, 0)
  | .decodeBrc1 => some (true, 1)
  | .decodeBrc2 => some (true, 2)
  | .decodeBrc3 => some (true, 3)
  | .decodeBrc4 => some (true, 4)
  | .decodeBrc5 => some (true, 5)
  | .decodeBrc6 => some (true, 6)
  | .decodeBrc7 => some (true, 7)
  | .cmdSet brc => some (false, brc)
  | _ => none

end Sys2Proof

namespace Sys2Proof.Machine

/-- A command row is a write of CMD (42_host_interface.md R192). -/
theorem exec_of_command {i : Instr} {start : Bool} {brc : BrcField} (h : i.command = some (start, brc)) (s : State) :
    exec i s = State.writeCmd start brc s := by
  cases i <;> simp only [Instr.command, Option.some.injEq, Prod.mk.injEq, reduceCtorEq] at h <;>
    (obtain ⟨rfl, rfl⟩ := h; rfl)

/-- Each of the DECODE rows is a START of some level's field, reserved or not. -/
theorem exists_command_of_decode {i : Instr}
    (h : i ∈ [Instr.decodeBrc0, .decodeBrc1, .decodeBrc2, .decodeBrc3, .decodeBrc4, .decodeBrc5, .decodeBrc6,
      .decodeBrc7]) : ∃ brc, i.command = some (true, brc) := by
  revert i
  decide

/-- While idle, a write of CMD with START set is the START (42_host_interface.md R192). -/
theorem writeCmd_of_start {s : State} (idle : s.busy = false) (brc : BrcField) :
    State.writeCmd true brc s = State.commit (State.start brc s) := by
  simp [State.writeCmd, idle]

/-- `s` after the START of a decode (40_decode_operation.md R91). -/
def State.started (brc : BrcField) (s : State) : State :=
  { s with
    cmdBrc := brc, stBrc := brc, done := false, complete := false, err := .noError, cursor := 0, samples := 0,
    busy := true, phase := .sign, drawKey := s.drawKey + 1 }

/-- While idle, a START of a level whose counts are within the memories starts its decode. -/
theorem exec_of_start {s : State} (idle : s.busy = false) (bits : s.bitCount ≤ s.par.bitbufLen)
    (out : s.nout ≤ s.par.outCap) {i : Instr} {brc : BrcField} (row : i.command = some (true, brc))
    (level : brc.toNat ≤ 4) : exec i s = .next (s.started brc) := by
  simp [exec_of_command row, writeCmd_of_start idle, State.start, Nat.not_lt.2 level, Nat.not_lt.2 bits,
    Nat.not_lt.2 out, State.commit, State.latch, State.started]

/-- Settles O8, by `exec_of_start`. -/
theorem decodeCommandsStart : Obligations.DecodeCommandsStart := fun s idle bits out x hx => by
  obtain ⟨row, level⟩ : x.1.command = some (true, x.2) ∧ x.2.toNat ≤ 4 := by
    revert x
    decide
  exact exec_of_start idle bits out row level

/-- A write of CMD writes CMD, STATUS, CURSOR, SAMPLES and PHASE at most, and may record the end of a command
(40_decode_operation.md R91, R102). -/
theorem writeCmd_frame {start : Bool} {brc : BrcField} {s t : State} (h : State.writeCmd start brc s = .next t) :
    ∃ records, t = { s with
      cmdBrc := t.cmdBrc, busy := t.busy, done := t.done, complete := t.complete, err := t.err, stBrc := t.stBrc,
      cursor := t.cursor, samples := t.samples, phase := t.phase, ghost := s.ghost ++ records,
      drawKey := t.drawKey } := by
  rcases writeCmd_next h with ⟨-, rfl⟩ | ⟨-, -, rfl⟩ | ⟨-, -, rfl⟩
  · exact ⟨[], by rw [List.append_nil]⟩
  · rcases start_cases brc s with ⟨-, e⟩ | ⟨-, -, e⟩ | ⟨-, -, -, e⟩
    · exact ⟨_, by rw [e]; rfl⟩
    · exact ⟨_, by rw [e]; rfl⟩
    · exact ⟨[], by rw [e, List.append_nil]; rfl⟩
  · exact ⟨[], by rw [List.append_nil]⟩

/-- Settles O12, by `writeCmd_frame`. -/
theorem commandFrame : Obligations.CommandFrame := fun s t i hi h => by
  obtain ⟨start, brc, row⟩ : ∃ start brc, i.command = some (start, brc) := by
    rcases hi with hi | ⟨b, rfl⟩
    · exact ⟨true, exists_command_of_decode hi⟩
    · exact ⟨false, b, rfl⟩
  obtain ⟨records, frame⟩ := writeCmd_frame (exec_of_command row s ▸ h)
  rw [frame]
  exact ⟨rfl, rfl, rfl, rfl, rfl, fun _ => rfl, fun _ => rfl, rfl, rfl, rfl, List.prefix_append _ _⟩

/-! ## The moves of a running DEC step -/

theorem sampleStop_eq_true {s : State} : s.sampleStop = true ↔ s.samples = s.nout ∨ s.bitCount ≤ s.cursor := by
  simp [State.sampleStop]

theorem exhausted_eq_true {s : State} :
    s.exhausted = true ↔ s.par.boundCheck = .perBit ∧ s.bitCount ≤ s.cursor := by
  simp [State.exhausted]

/-- The next DEC step needs the element at CURSOR: a sample start that does not stop, or a code bit that is not exhausted
(40_decode_operation.md R93, R94). -/
def State.Reading (s : State) : Prop :=
  (s.phase = .sign ∧ s.sampleStop = false) ∨ (s.phase = .code ∧ s.exhausted = false)

/-- What a DEC step of a running command can do. -/
inductive DecMove (s : State) : State → Prop where
  /-- A sample start that stops. -/
  | finishSample (phase : s.phase = .sign) (stop : s.sampleStop = true) :
      DecMove s { State.finish (decide (s.samples = s.nout)) s with drawKey := s.drawKey + 1 }
  /-- A code bit with the input used up, in PER_BIT mode. -/
  | finishCode (phase : s.phase = .code) (stop : s.exhausted = true) :
      DecMove s { State.finish false s with drawKey := s.drawKey + 1 }
  /-- A read of an element that does not exist. -/
  | overrun (reading : s.Reading) (beyond : s.readBit s.cursor = none) :
      DecMove s { State.raiseError .overrun s with drawKey := s.drawKey + 1 }
  /-- A sign bit. -/
  | sign (phase : s.phase = .sign) (go : s.sampleStop = false) (b : Bool) (bit : s.readBit s.cursor = some b) :
      DecMove s { s with cursor := s.cursor + 1, signl := b, acc := 0, len := 0, phase := .code,
                         drawKey := s.drawKey + 1 }
  /-- A code bit that leads to an inner node. -/
  | node (phase : s.phase = .code) (go : s.exhausted = false) (b : Bool) (lv : Level)
      (bit : s.readBit s.cursor = some b) (level : Level.ofField s.stBrc = some lv)
      (inner : matchCode lv s.nextLen.toNat (s.nextAcc b).toNat = none) :
      DecMove s { State.takeCodeBit b s with drawKey := s.drawKey + 1 }
  /-- A code bit that completes a code word. -/
  | leaf (phase : s.phase = .code) (go : s.exhausted = false) (b : Bool) (lv : Level) (m : Nat)
      (bit : s.readBit s.cursor = some b) (level : Level.ofField s.stBrc = some lv)
      (leaf : matchCode lv s.nextLen.toNat (s.nextAcc b).toNat = some m) (room : s.samples < s.par.outCap) :
      DecMove s
        { State.takeCodeBit b s with
          out := Mem.write s.out s.samples (outValue lv m s.signl), samples := s.samples + 1, phase := .sign,
          drawKey := s.drawKey + 1 }

theorem decMove_of_decStep {s t : State} (hb : s.busy = true) (h : s.decStep = .next t) : DecMove s t := by
  rcases decStep_next h with ⟨idle, -⟩ | ⟨-, hp, h⟩ | ⟨-, hp, h⟩
  · simp [hb] at idle
  · rcases signStep_next h with ⟨stop, rfl⟩ | ⟨go, beyond, rfl⟩ | ⟨go, b, bit, rfl⟩
    · exact .finishSample hp stop
    · exact .overrun (.inl ⟨hp, go⟩) beyond
    · exact .sign hp go b bit
  · rcases codeBitStep_next h with
      ⟨stop, rfl⟩ | ⟨go, beyond, rfl⟩ | ⟨go, b, lv, bit, level, ⟨inner, rfl⟩ | ⟨m, leaf, hw⟩⟩
    · exact .finishCode hp stop
    · exact .overrun (.inr ⟨hp, go⟩) beyond
    · exact .node hp go b lv bit level inner
    · obtain ⟨room, rfl⟩ := writeSample_next hw
      exact .leaf hp go b lv m bit level leaf room

theorem DecMove.decStep {s t : State} (move : DecMove s t) (hb : s.busy = true) : s.decStep = .next t := by
  cases move with
  | finishSample phase stop => simp [decStep_of_sign hb phase, State.signStep, stop, State.commit]
  | finishCode phase stop => simp [decStep_of_code hb phase, State.codeBitStep, stop, State.commit]
  | overrun reading beyond =>
    rcases reading with ⟨phase, go⟩ | ⟨phase, go⟩
    · simp [decStep_of_sign hb phase, State.signStep, go, beyond, State.commit]
    · simp [decStep_of_code hb phase, State.codeBitStep, go, beyond, State.commit]
  | sign phase go b bit => exact (decStep_of_sign hb phase).trans (signStep_of_readBit go bit)
  | node phase go b lv bit level inner =>
    exact (decStep_of_code hb phase).trans (codeBitStep_of_node go bit level inner)
  | leaf phase go b lv m bit level leaf room =>
    rw [decStep_of_code hb phase, codeBitStep_of_leaf go bit level leaf]
    exact if_pos room

/-- Settles O24, by the moves of a sample start. -/
theorem sampleStartStep : Obligations.SampleStartStep := fun _ hb hp =>
  ⟨fun stop => (DecMove.finishSample hp (sampleStop_eq_true.2 stop)).decStep hb,
    fun unfinished below inside =>
      (DecMove.sign hp (sampleStop_eq_false.2 ⟨unfinished, below⟩) _ (readBit_eq_some.2 ⟨inside, rfl⟩)).decStep hb,
    fun unfinished below beyond =>
      (DecMove.overrun (.inl ⟨hp, sampleStop_eq_false.2 ⟨unfinished, below⟩⟩) (readBit_eq_none.2 beyond)).decStep hb⟩

/-- ACC after a code bit, as 40_decode_operation.md R94 writes it: (ACC << 1) | b. -/
theorem nextAcc_decide (s : State) (p : Prop) [Decidable p] :
    s.nextAcc (decide p) = (s.acc <<< 1) ||| (if p then 1 else 0) := by
  by_cases hp : p <;> simp [State.nextAcc, hp]

theorem exhausted_eq_false_iff {s : State} :
    s.exhausted = false ↔ ¬ (s.par.boundCheck = .perBit ∧ s.bitCount ≤ s.cursor) := by
  rw [← exhausted_eq_true, Bool.not_eq_true]

/-- Settles O25, by the moves of a code bit. -/
theorem codeBitStep : Obligations.CodeBitStep := fun s lv hb hp level => by
  refine ⟨fun perBit used => (DecMove.finishCode hp (exhausted_eq_true.2 ⟨perBit, used⟩)).decStep hb,
    fun go beyond =>
      (DecMove.overrun (.inr ⟨hp, exhausted_eq_false_iff.2 go⟩) (readBit_eq_none.2 beyond)).decStep hb,
    fun go below acc' hacc => ?_⟩
  have bit : s.readBit s.cursor = some (decide (s.readBits s.cursor ≠ 0)) := readBit_eq_some.2 ⟨below, rfl⟩
  obtain rfl : acc' = s.nextAcc (decide (s.readBits s.cursor ≠ 0)) := hacc.trans (nextAcc_decide s _).symm
  have go := exhausted_eq_false_iff.2 go
  exact ⟨fun inner => (DecMove.node hp go _ lv bit level inner).decStep hb,
    fun m leaf room => (DecMove.leaf hp go _ lv m bit level leaf room).decStep hb⟩

/-- The instruction of a code word runs only as the DEC step that it is (41_code_tables.md R175). -/
theorem decStep_of_exec_codeWord {s t : State} {i : Instr} (row : i.codeWord.isSome = true)
    (h : exec i s = .next t) : s.decStep = .next t := by
  obtain ⟨⟨lv, m, sign⟩, hi⟩ := Option.isSome_iff_exists.1 row
  obtain ⟨recognised, -⟩ := completeCode_next (exec_of_codeWord hi s ▸ h)
  exact (decStep_of_nextCodeWord recognised).trans h

/-- A DEC step writes the STATUS flags, CURSOR, SAMPLES, the internal state and OUT at most, besides the ghost list
(40_decode_operation.md R102). -/
theorem DecMove.frame {s t : State} (move : DecMove s t) :
    t = { s with
      busy := t.busy, done := t.done, complete := t.complete, err := t.err, cursor := t.cursor, samples := t.samples,
      phase := t.phase, signl := t.signl, acc := t.acc, len := t.len, out := t.out, ghost := t.ghost,
      drawKey := t.drawKey } := by
  cases move <;> rfl

/-- A DEC step writes OUT[SAMPLES] and counts it, or leaves both SAMPLES and OUT (20_memory.md R68). -/
theorem DecMove.out_cases {s t : State} (move : DecMove s t) :
    (t.samples = s.samples ∧ t.out = s.out) ∨
      (t.samples = s.samples + 1 ∧ ∃ v, t.out = Mem.write s.out s.samples v) := by
  cases move with
  | leaf => exact .inr ⟨rfl, _, rfl⟩
  | _ => exact .inl ⟨rfl, rfl⟩

/-- Settles O31, by `DecMove.frame` and `DecMove.out_cases`: a code word's instruction is a DEC step too. -/
theorem decStepFrame : Obligations.DecStepFrame := fun s t h => by
  have hs : s.decStep = .next t := h.elim id fun ⟨_, row, h⟩ => decStep_of_exec_codeWord row h
  by_cases hb : s.busy = true
  · have move := decMove_of_decStep hb hs
    have written := move.out_cases
    rw [move.frame]
    refine ⟨rfl, rfl, rfl, rfl, fun _ => rfl, rfl, rfl, rfl, ?_⟩
    rcases written with ⟨same, out⟩ | ⟨more, v, out⟩
    · exact ⟨.inl same, fun a _ => congrArg (Mem.read? · a) out, fun _ a => congrArg (Mem.read? · a) out⟩
    · exact ⟨.inr more, fun a other => (congrArg (Mem.read? · a) out).trans (Mem.read?_write_of_ne other),
        fun same => absurd (more.symm.trans same) (Nat.succ_ne_self _)⟩
  · obtain rfl : s = t := Host.Outcome.next.inj ((decStep_of_idle (by simpa using hb)).symm.trans hs)
    exact ⟨rfl, rfl, rfl, rfl, fun _ => rfl, rfl, rfl, rfl, .inl rfl, fun _ _ => rfl, fun _ _ => rfl⟩

/-- Settles O32, by the moves: the three that end the command read no element. -/
theorem cursorCountsElementsRead : Obligations.CursorCountsElementsRead := fun s t hb hs => by
  cases decMove_of_decStep hb hs with
  | finishSample | finishCode | overrun => exact ⟨fun running => absurd running Bool.false_ne_true, fun _ => rfl⟩
  | sign | node | leaf => exact ⟨fun _ => rfl, fun ended => by simp [hb] at ended⟩

/-- Settles O44: an idle DEC step answers its own state. -/
theorem idleDecHasNoStep : Obligations.IdleDecHasNoStep := fun _ idle =>
  ⟨fun quiet => (step_of_inbox_nil quiet).trans (decStep_of_idle idle),
    fun _ pending => (step_of_inbox_cons pending).trans (decStep_of_idle idle)⟩

end Sys2Proof.Machine

namespace Sys2Proof.Machine

/-! ## How a command ends -/

/-- The first DEC step after START where there is no sample to decode or no bit to read (40_decode_operation.md R108). -/
theorem decStep_started {s : State} (brc : BrcField) (empty : s.nout = 0 ∨ s.bitCount = 0) :
    (s.started brc).decStep = .next
      { State.finish (decide (0 = s.nout)) (s.started brc) with drawKey := (s.started brc).drawKey + 1 } :=
  (DecMove.finishSample rfl
    (sampleStop_eq_true.2 (empty.imp Eq.symm fun noBits => noBits.trans_le (Nat.zero_le _)))).decStep rfl

/-- Settles O37, by `decStep_started`; with CURSOR = 0 RESULT is 0. -/
theorem zeroCases : Obligations.ZeroCases := fun s idle bits out i hi => by
  obtain ⟨brc, row, level⟩ : ∃ brc, i.command = some (true, brc) ∧ brc.toNat ≤ 4 := by
    revert i
    decide
  have start := exec_of_start idle bits out row level
  exact ⟨fun noSample => ⟨_, _, start, decStep_started brc (.inl noSample), rfl, rfl, decide_eq_true noSample.symm, rfl,
      rfl, rfl, State.result_of_cursor_zero rfl, rfl⟩,
    fun noBits samples => ⟨_, _, start, decStep_started brc (.inr noBits), rfl, rfl,
      decide_eq_false (Nat.ne_of_lt samples), rfl, rfl, rfl, State.result_of_cursor_zero rfl, rfl⟩⟩

/-- Settles O38: the sample start stops, and RESULT is the CURSOR that it stops at, by `State.Inv.signedOf_result`. -/
theorem exactBoundary : Obligations.ExactBoundary := fun s h hb hp boundary => by
  have signed := (h.finish hb (decide (s.samples = s.nout))).signedOf_result
  refine ⟨_, (DecMove.finishSample hp (sampleStop_eq_true.2 (.inr boundary.ge))).decStep hb, rfl, rfl,
    fun all => ⟨decide_eq_true all, ?_⟩, fun missing => ⟨decide_eq_false missing, ?_⟩⟩
  · simpa [all, boundary] using signed
  · simpa [missing, boundary] using signed

/-- What `finish` shows of a running command that is complete exactly when all its samples are written, and otherwise has
used up its input (40_decode_operation.md R101, R105, R107). -/
theorem State.Inv.finish_shows {s t : State} (h : s.Inv) (hb : s.busy = true) {c : Bool}
    (ht : t = { State.finish c s with drawKey := s.drawKey + 1 }) (complete : c = true ↔ s.samples = s.nout)
    (used : c = false → s.bitCount ≤ s.cursor) :
    (t.complete = true ↔ t.samples = t.nout) ∧
    (t.complete = true → signedOf t.par.wCnt t.result = (t.cursor : Int)) ∧
    (t.complete = false → t.samples < t.nout ∧ t.bitCount ≤ t.cursor ∧
      signedOf t.par.wCnt t.result = -(t.cursor : Int) ∧
      (t.par.boundCheck = .perBit → t.cursor = t.bitCount ∧ signedOf t.par.wCnt t.result = -(t.bitCount : Int))) ∧
    (t.par.boundCheck = .perBit → t.cursor ≤ t.bitCount) := by
  have signed := (h.finish hb c).signedOf_result
  have bound := h.perBitCursor hb
  subst ht
  refine ⟨complete, fun hc => ?_, fun hc => ?_, bound⟩
  · simpa [show c = true from hc] using signed
  · obtain rfl : c = false := hc
    have missing : s.samples ≠ s.nout := fun all => Bool.false_ne_true (complete.2 all)
    refine ⟨lt_of_le_of_ne (h.runningSamples hb) missing, used rfl, by simpa using signed, fun perBit => ?_⟩
    have atEnd : s.cursor = s.bitCount := (bound perBit).antisymm (used rfl)
    exact ⟨atEnd, by simpa [atEnd] using signed⟩

/-- Settles O39: of the moves that end a command, the two that raise no error end it by `finish`. -/
theorem completeMeansAllSamplesWritten : Obligations.CompleteMeansAllSamplesWritten := fun s t h hb hs ended ok => by
  cases decMove_of_decStep hb hs with
  | finishSample phase stop =>
    have shown := h.finish_shows hb rfl (c := decide (s.samples = s.nout)) decide_eq_true_iff fun missing =>
      (sampleStop_eq_true.1 stop).resolve_left (of_decide_eq_false missing)
    obtain ⟨complete, whole, part, bound⟩ := shown
    exact ⟨complete, whole, part, bound, fun inCode => by simp [phase] at inCode⟩
  | finishCode phase stop =>
    obtain ⟨perBit, used⟩ := exhausted_eq_true.1 stop
    have missing : s.samples ≠ s.nout := (h.codeSamples phase).ne
    obtain ⟨complete, whole, part, bound⟩ := h.finish_shows hb rfl (c := false) (by simp [missing]) fun _ => used
    exact ⟨complete, whole, part, bound, fun _ => ⟨perBit, rfl⟩⟩
  | overrun => exact absurd ok ErrCode.noConfusion
  | sign | node | leaf => simp [hb] at ended

/-! ## Two commands that decode alike -/

/-- The element that exists at an index reads alike in two such states, written or drawn. -/
theorem State.SameCommand.readBit {s t : State} (h : State.SameCommand s t) :
    s.readBit s.cursor = t.readBit t.cursor := by
  rw [← h.progress.1]
  unfold State.readBit State.readBits
  rw [← h.par, ← h.bits]
  split_ifs with hi
  · rfl
  · cases hr : Mem.read? s.bits s.cursor with
    | some v => rfl
    | none => simpa using congrArg (fun w => some (decide (w.toNat ≠ 0))) (h.draws s.cursor (by omega) hr 0)

theorem State.SameCommand.sampleStop {s t : State} (h : State.SameCommand s t) : s.sampleStop = t.sampleStop := by
  simp only [State.sampleStop, h.counts, h.progress]

theorem State.SameCommand.exhausted {s t : State} (h : State.SameCommand s t) : s.exhausted = t.exhausted := by
  simp only [State.exhausted, h.par, h.counts, h.progress]

theorem State.SameCommand.reading {s t : State} (h : State.SameCommand s t) (reading : s.Reading) : t.Reading := by
  obtain ⟨-, -, phase⟩ := h.progress
  unfold State.Reading at reading ⊢
  rwa [← phase, ← h.sampleStop, ← h.exhausted]

/-- Inside a code the same bit leads to the same node. -/
theorem State.SameCommand.nextNode {s t : State} (h : State.SameCommand s t) (phase : s.phase = .code) (b : Bool) :
    s.nextAcc b = t.nextAcc b ∧ s.nextLen = t.nextLen := by
  obtain ⟨-, acc, len⟩ := h.walk phase
  exact ⟨by rw [State.nextAcc, acc, ← State.nextAcc], by rw [State.nextLen, len, ← State.nextLen]⟩

/-- The draws stay the same after a write of each. -/
theorem State.SameCommand.nextDraws {s t : State} (h : State.SameCommand s t) :
    State.SameDraws { s with drawKey := s.drawKey + 1 } { t with drawKey := t.drawKey + 1 } :=
  sameDraws_after_write h.draws

theorem State.SameCommand.finish {s t : State} (h : State.SameCommand s t) (c : Bool) :
    State.SameCommand { State.finish c s with drawKey := s.drawKey + 1 }
      { State.finish c t with drawKey := t.drawKey + 1 } := by
  obtain ⟨-, -, -, err, level⟩ := h.flags
  obtain ⟨cursor, samples, -⟩ := h.progress
  exact { h with
    flags := ⟨rfl, rfl, rfl, err, level⟩
    progress := ⟨cursor, samples, rfl⟩
    walk := fun code => Phase.noConfusion code
    draws := h.nextDraws }

/-- Each move of the one is a move of the other, and the two decode alike after it (40_decode_operation.md R113). -/
theorem State.SameCommand.move {s t s' : State} (h : State.SameCommand s t) (move : DecMove s s') :
    ∃ t', DecMove t t' ∧ State.SameCommand s' t' := by
  obtain ⟨-, hnout⟩ := h.counts
  obtain ⟨-, -, -, -, hst⟩ := h.flags
  obtain ⟨hcursor, hsamples, hphase⟩ := h.progress
  have hcursor' : s.cursor + 1 = t.cursor + 1 := congrArg (· + 1) hcursor
  cases move with
  | finishSample phase stop =>
    refine ⟨_, .finishSample (hphase ▸ phase) (h.sampleStop ▸ stop), ?_⟩
    have complete : decide (s.samples = s.nout) = decide (t.samples = t.nout) := by rw [hsamples, hnout]
    rw [complete]
    exact h.finish _
  | finishCode phase stop => exact ⟨_, .finishCode (hphase ▸ phase) (h.exhausted ▸ stop), h.finish false⟩
  | overrun reading beyond =>
    refine ⟨_, .overrun (h.reading reading) (h.readBit ▸ beyond), ?_⟩
    exact { h with
      flags := ⟨rfl, rfl, rfl, rfl, hst⟩
      progress := ⟨hcursor, hsamples, rfl⟩
      walk := fun code => Phase.noConfusion code
      draws := h.nextDraws }
  | sign phase go b bit =>
    refine ⟨_, .sign (hphase ▸ phase) (h.sampleStop ▸ go) b (h.readBit ▸ bit), ?_⟩
    exact { h with
      progress := ⟨hcursor', hsamples, rfl⟩
      walk := fun _ => ⟨rfl, rfl, rfl⟩
      draws := h.nextDraws }
  | node phase go b lv bit level inner =>
    obtain ⟨hsignl, -, -⟩ := h.walk phase
    obtain ⟨acc, len⟩ := h.nextNode phase b
    refine ⟨_, .node (hphase ▸ phase) (h.exhausted ▸ go) b lv (h.readBit ▸ bit) (hst ▸ level) (acc ▸ len ▸ inner), ?_⟩
    exact { h with
      progress := ⟨hcursor', hsamples, hphase⟩
      walk := fun _ => ⟨hsignl, acc, len⟩
      draws := h.nextDraws }
  | leaf phase go b lv m bit level leaf room =>
    obtain ⟨hsignl, -, -⟩ := h.walk phase
    obtain ⟨acc, len⟩ := h.nextNode phase b
    refine ⟨_, .leaf (hphase ▸ phase) (h.exhausted ▸ go) b lv m (h.readBit ▸ bit) (hst ▸ level) (acc ▸ len ▸ leaf)
      (hsamples ▸ h.par ▸ room), ?_⟩
    exact { h with
      progress := ⟨hcursor', congrArg (· + 1) hsamples, rfl⟩
      walk := fun code => Phase.noConfusion code
      written := fun j hj => by
        show Mem.read? (Mem.write s.out s.samples _) j = Mem.read? (Mem.write t.out t.samples _) j
        rw [← hsamples, ← hsignl, Mem.read?_write, Mem.read?_write]
        split_ifs with last
        · rfl
        · exact h.written j (lt_of_le_of_ne (Nat.le_of_lt_succ hj) last)
      draws := h.nextDraws }

/-- A START of the same level, on the same counts and bits, leads to commands that decode alike (40_decode_operation.md
R91, R113). -/
theorem sameCommand_start {s t : State} (par : s.par = t.par) (bitCount : s.bitCount = t.bitCount)
    (nout : s.nout = t.nout) (bits : s.bits = t.bits) (draws : State.SameDraws s t) (brc : BrcField) :
    State.SameCommand { State.start brc s with drawKey := (State.start brc s).drawKey + 1 }
      { State.start brc t with drawKey := (State.start brc t).drawKey + 1 } := by
  unfold State.start
  rw [← par, ← bitCount, ← nout]
  have draws : State.SameDraws { s with drawKey := s.drawKey + 1 } { t with drawKey := t.drawKey + 1 } :=
    sameDraws_after_write draws
  split_ifs
  all_goals exact
    { par := par
      counts := ⟨bitCount, nout⟩
      flags := ⟨rfl, rfl, rfl, rfl, rfl⟩
      progress := ⟨rfl, rfl, rfl⟩
      walk := fun code => Phase.noConfusion code
      bits := bits
      written := fun _ below => absurd below (Nat.not_lt_zero _)
      draws := draws }

/-- Settles O42: the START by `sameCommand_start`, and each DEC step by its move. -/
theorem commandDoesNotDependOnEarlierOnes : Obligations.CommandDoesNotDependOnEarlierOnes := by
  refine ⟨fun s t s' hs ht par bitCount nout bits draws i hi h => ?_, fun s t s' h hs => ?_⟩
  · obtain ⟨brc, row⟩ := exists_command_of_decode hi
    rw [exec_of_command row, writeCmd_of_start hs] at h
    cases h
    exact ⟨_, (exec_of_command row t).trans (writeCmd_of_start ht brc),
      sameCommand_start par bitCount nout bits draws brc⟩
  · obtain ⟨hbusy, -⟩ := h.flags
    by_cases hb : s.busy = true
    · obtain ⟨t', move, alike⟩ := h.move (decMove_of_decStep hb hs)
      exact ⟨t', move.decStep (hbusy ▸ hb), alike⟩
    · have idle : s.busy = false := by simpa using hb
      obtain rfl : s = s' := Host.Outcome.next.inj ((decStep_of_idle idle).symm.trans hs)
      exact ⟨t, decStep_of_idle (hbusy ▸ idle), h⟩

end Sys2Proof.Machine

namespace Sys2Proof.Machine

/-! SUPPORT. The whole-command function: its rounds, the decoding of concatenated symbols, and the machine that computes
it. -/

/-! ## Bits read from an index on -/

/-- The bits `bits` stand at the indices `cursor`, `cursor + 1`, ... -/
def BitsAt (bit : Nat → Bool) (cursor : Nat) (bits : List Bool) : Prop :=
  ∀ k b, bits[k]? = some b → bit (cursor + k) = b

theorem BitsAt.head {bit : Nat → Bool} {cursor : Nat} {b : Bool} {bits : List Bool}
    (h : BitsAt bit cursor (b :: bits)) : bit cursor = b :=
  h 0 b rfl

theorem BitsAt.tail {bit : Nat → Bool} {cursor : Nat} {b : Bool} {bits : List Bool}
    (h : BitsAt bit cursor (b :: bits)) : BitsAt bit (cursor + 1) bits := fun k b' hk => by
  rw [Nat.add_assoc, Nat.add_comm 1]
  exact h (k + 1) b' hk

theorem BitsAt.left {bit : Nat → Bool} {cursor : Nat} {front back : List Bool}
    (h : BitsAt bit cursor (front ++ back)) : BitsAt bit cursor front := fun k b hk =>
  h k b ((List.getElem?_append_left (List.getElem?_eq_some_iff.1 hk).1).trans hk)

theorem BitsAt.right {bit : Nat → Bool} {cursor : Nat} {front back : List Bool}
    (h : BitsAt bit cursor (front ++ back)) : BitsAt bit (cursor + front.length) back := fun k b hk => by
  rw [Nat.add_assoc]
  exact h _ b (by rw [List.getElem?_append_right (Nat.le_add_right _ _), Nat.add_sub_cancel_left, hk])

/-! ## The rounds of the whole-command function -/

section
variable (lv : Level) (bc : BoundCheck) (bitCount nout : Nat) (bit : Nat → Bool)

/-- The rest of `decode_fn` (40_decode_operation.md R103) from inside a code: the inner loop goes on from the node
`(len, acc)`, for at most `fuel` code bits, and then the outer loop, for at most `rounds` rounds. -/
def wholeCode (rounds fuel cursor acc len samples : Nat) (sign : Bool) (out : List Nat) : Option WholeResult :=
  match wholeWalk lv bc bitCount bit fuel cursor acc len with
  | .leaf m cursor' =>
    wholeSamples lv bc bitCount nout bit rounds cursor' (samples + 1) (out ++ [outValue lv m sign])
  | .exhausted cursor' => some { cursor := cursor', samples := samples, complete := false, out := out }
  | .noLeaf => none

end

section
variable {lv : Level} {bc : BoundCheck} {bitCount nout : Nat} {bit : Nat → Bool}
  {rounds fuel cursor acc len samples : Nat} {sign : Bool} {out : List Nat}

theorem wholeSamples_of_stop (stop : samples = nout ∨ bitCount ≤ cursor) :
    wholeSamples lv bc bitCount nout bit (rounds + 1) cursor samples out =
      some { cursor := cursor, samples := samples, complete := decide (samples = nout), out := out } :=
  if_pos stop

/-- A round that does not stop reads a sign bit and then a code from the root. -/
theorem wholeSamples_of_go (unfinished : samples ≠ nout) (below : cursor < bitCount) :
    wholeSamples lv bc bitCount nout bit (rounds + 1) cursor samples out =
      wholeCode lv bc bitCount nout bit rounds lv.lmax (cursor + 1) 0 0 samples (bit cursor) out :=
  if_neg (not_or.2 ⟨unfinished, Nat.not_le.2 below⟩)

theorem wholeCode_of_exhausted (stop : bc = .perBit ∧ bitCount ≤ cursor) :
    wholeCode lv bc bitCount nout bit rounds (fuel + 1) cursor acc len samples sign out =
      some { cursor := cursor, samples := samples, complete := false, out := out } := by
  have walk : wholeWalk lv bc bitCount bit (fuel + 1) cursor acc len = .exhausted cursor := if_pos stop
  rw [wholeCode, walk]

/-- A code bit that leads to an inner node. -/
theorem wholeCode_of_node (go : ¬ (bc = .perBit ∧ bitCount ≤ cursor))
    (inner : matchCode lv (len + 1) (2 * acc + (bit cursor).toNat) = none) :
    wholeCode lv bc bitCount nout bit rounds (fuel + 1) cursor acc len samples sign out =
      wholeCode lv bc bitCount nout bit rounds fuel (cursor + 1) (2 * acc + (bit cursor).toNat) (len + 1) samples sign
        out := by
  have walk : wholeWalk lv bc bitCount bit (fuel + 1) cursor acc len =
      wholeWalk lv bc bitCount bit fuel (cursor + 1) (2 * acc + (bit cursor).toNat) (len + 1) := by
    rw [wholeWalk, if_neg go, inner]
  rw [wholeCode, walk, ← wholeCode]

/-- A code bit that completes a code word. -/
theorem wholeCode_of_leaf {m : Nat} (go : ¬ (bc = .perBit ∧ bitCount ≤ cursor))
    (leaf : matchCode lv (len + 1) (2 * acc + (bit cursor).toNat) = some m) :
    wholeCode lv bc bitCount nout bit rounds (fuel + 1) cursor acc len samples sign out =
      wholeSamples lv bc bitCount nout bit rounds (cursor + 1) (samples + 1) (out ++ [outValue lv m sign]) := by
  have walk : wholeWalk lv bc bitCount bit (fuel + 1) cursor acc len = .leaf m (cursor + 1) := by
    rw [wholeWalk, if_neg go, leaf]
  rw [wholeCode, walk]

/-- The rest of a code word that lies within BIT_COUNT is read to its end, in either mode. -/
theorem wholeCode_of_table {m : Nat} {pre suf : List Bool} (table : lv.table[m]? = some (pre ++ suf)) (hs : suf ≠ [])
    (enough : suf.length ≤ fuel) (within : cursor + suf.length ≤ bitCount) (read : BitsAt bit cursor suf) :
    wholeCode lv bc bitCount nout bit rounds fuel cursor (val pre) pre.length samples sign out =
      wholeSamples lv bc bitCount nout bit rounds (cursor + suf.length) (samples + 1)
        (out ++ [outValue lv m sign]) := by
  induction suf generalizing pre fuel cursor with
  | nil => exact absurd rfl hs
  | cons b suf ih =>
    obtain ⟨fuel, rfl⟩ := Nat.exists_eq_add_one_of_ne_zero (Nat.ne_zero_of_lt enough)
    rw [List.length_cons] at enough within ⊢
    have go : ¬ (bc = .perBit ∧ bitCount ≤ cursor) := fun ⟨_, used⟩ => by omega
    by_cases hsuf : suf = []
    · subst hsuf
      exact wholeCode_of_leaf go (by simpa [read.head, val_concat] using matchCode_of_table table)
    · have table' : lv.table[m]? = some ((pre ++ [b]) ++ suf) := by simpa using table
      have inner : matchCode lv (pre.length + 1) (2 * val pre + (bit cursor).toNat) = none := by
        simpa [read.head, val_concat] using matchCode_of_isInternal (isInternal_of_table table' hsuf)
      have deeper : pre.length + 1 = (pre ++ [b]).length := by simp
      rw [wholeCode_of_node go inner, read.head, ← val_concat, deeper, ih table' hsuf (by omega) (by omega) read.tail,
        Nat.add_assoc, Nat.add_comm 1]

/-- No code word is longer than LMAX. -/
theorem length_le_lmax {m : Nat} {code : List Bool} (table : lv.table[m]? = some code) : code.length ≤ lv.lmax := by
  have key : ∀ c ∈ lv.table, c.length ≤ lv.lmax := by cases lv <;> decide
  exact key code (List.mem_of_getElem? table)

end

/-! ## Concatenated symbols -/

/-- The bits of a list of symbols, each a magnitude and a sign (30_encoding.md R74). -/
def symbolBits (lv : Level) (symbols : List (Nat × Bool)) : List Bool :=
  (symbols.map fun x => x.2 :: lv.table.getD x.1 []).flatten

theorem exists_code {lv : Level} {m : Nat} (h : m < lv.alphabet) : ∃ code, lv.table[m]? = some code :=
  ⟨_, List.getElem?_eq_getElem (by simpa using h)⟩

theorem symbolBits_cons {lv : Level} {m : Nat} {code : List Bool} (table : lv.table[m]? = some code) (sign : Bool)
    (symbols : List (Nat × Bool)) :
    symbolBits lv ((m, sign) :: symbols) = sign :: (code ++ symbolBits lv symbols) := by
  simp [symbolBits, table]

/-- The rounds over a list of symbols that ends exactly at BIT_COUNT with the NOUT-th sample. -/
theorem wholeSamples_of_symbols {lv : Level} {bc : BoundCheck} {bitCount nout : Nat} {bit : Nat → Bool}
    {symbols : List (Nat × Bool)} {rounds cursor samples : Nat} {out : List Nat}
    (magnitudes : ∀ x ∈ symbols, x.1 < lv.alphabet) (read : BitsAt bit cursor (symbolBits lv symbols))
    (bits : cursor + (symbolBits lv symbols).length = bitCount) (count : samples + symbols.length = nout)
    (enough : symbols.length < rounds) :
    wholeSamples lv bc bitCount nout bit rounds cursor samples out =
      some { cursor := bitCount, samples := nout, complete := true,
             out := out ++ symbols.map fun x => outValue lv x.1 x.2 } := by
  induction symbols generalizing rounds cursor samples out with
  | nil =>
    obtain ⟨rounds, rfl⟩ := Nat.exists_eq_add_one_of_ne_zero (Nat.ne_zero_of_lt enough)
    obtain rfl : cursor = bitCount := bits
    obtain rfl : samples = nout := count
    simpa using wholeSamples_of_stop (.inl rfl)
  | cons x symbols ih =>
    obtain ⟨m, sign⟩ := x
    obtain ⟨rounds, rfl⟩ := Nat.exists_eq_add_one_of_ne_zero (Nat.ne_zero_of_lt enough)
    obtain ⟨hm, magnitudes⟩ := List.forall_mem_cons.1 magnitudes
    obtain ⟨code, table⟩ := exists_code hm
    rw [symbolBits_cons table] at read bits
    rw [List.length_cons] at count enough
    rw [List.length_cons, List.length_append] at bits
    calc wholeSamples lv bc bitCount nout bit (rounds + 1) cursor samples out
        = wholeCode lv bc bitCount nout bit rounds lv.lmax (cursor + 1) 0 0 samples sign out := by
          rw [wholeSamples_of_go (by omega) (by omega), read.head]
      _ = wholeSamples lv bc bitCount nout bit rounds (cursor + 1 + code.length) (samples + 1)
            (out ++ [outValue lv m sign]) :=
          wholeCode_of_table (pre := []) table (code_ne_nil table) (length_le_lmax table) (by omega) read.tail.left
      _ = _ := by
          rw [ih magnitudes read.tail.right (by omega) (by omega) (by omega)]
          simp

/-- Settles O35, by the rounds over the symbols. -/
theorem concatenatedSymbolsDecode : Obligations.ConcatenatedSymbolsDecode := by
  rintro lv bc symbols bits bit magnitudes rfl read
  have read' : BitsAt bit 0 (symbolBits lv symbols) := fun k b hk => (Nat.zero_add k).symm ▸ read k b hk
  exact wholeSamples_of_symbols magnitudes read' (Nat.zero_add _) (Nat.zero_add _) (Nat.lt_succ_self _)

end Sys2Proof.Machine

namespace Sys2Proof.Machine

/-! ## The machine computes the whole-command function -/

/-- A command of level `lv` at a sample start, with no transition pending and counts within the memories: `bit i` is the
bit that it will read at index `i`, and `out` are its samples so far. CURSOR may lie beyond BITBUF_LEN, where the machine
has raised OVERRUN and `decode_fn` alone goes on. -/
structure State.Follows (u : State) (lv : Level) (bit : Nat → Bool) (out : List Nat) : Prop where
  running : u.busy = true
  atSample : u.phase = .sign
  quiet : u.inbox = []
  level : Level.ofField u.stBrc = some lv
  bitsFit : u.bitCount ≤ u.par.bitbufLen
  outFits : u.nout ≤ u.par.outCap
  reads : ∀ k, decide (State.readBits { u with drawKey := u.drawKey + k } (u.cursor + k) ≠ 0) = bit (u.cursor + k)
  counted : out.length = u.samples
  samplesLe : u.samples ≤ u.nout
  written : ∀ j v, out[j]? = some v → Mem.read? u.out j = some v
  slack : u.cursor ≤ u.bitCount + lv.lmax
  perBit : u.par.boundCheck = .perBit → u.cursor ≤ u.bitCount

/-- `t` is the end without an error of the command that runs in `u`, with the result `r`. -/
structure State.EndsWith (u t : State) (r : WholeResult) : Prop where
  notBusy : t.busy = false
  done : t.done = true
  err : t.err = u.err
  cursor : t.cursor = r.cursor
  samples : t.samples = r.samples
  complete : t.complete = r.complete
  written : ∀ j v, r.out[j]? = some v → Mem.read? t.out j = some v
  kept : ∀ j, r.samples ≤ j → Mem.read? t.out j = Mem.read? u.out j

/-- `t` is the end with OVERRUN, at BITBUF_LEN, of the command that runs in `u` (60_exceptions.md R214). -/
structure State.EndsInOverrun (u t : State) : Prop where
  notBusy : t.busy = false
  done : t.done = true
  err : t.err = .overrun
  cursor : t.cursor = u.par.bitbufLen
  complete : t.complete = false

/-- The command that runs in `u` has the result `r` of `decode_fn`, within its bounds (40_decode_operation.md R106,
R107), and where the machine is still within BITS it takes one step per element and one more to reach `r` or, where `r`
lies beyond BITS, OVERRUN. -/
structure State.Computes (u : State) (lv : Level) (r : WholeResult) : Prop where
  cursorLe : u.cursor ≤ r.cursor
  samplesLe : u.samples ≤ r.samples
  counted : r.out.length = r.samples
  slack : r.cursor ≤ u.bitCount + lv.lmax
  perBit : u.par.boundCheck = .perBit → r.cursor ≤ u.bitCount
  ends : r.cursor ≤ u.par.bitbufLen →
    ∃ t, Host.Core.run core (r.cursor - u.cursor + 1) u = .next t ∧ u.EndsWith t r
  overruns : u.cursor ≤ u.par.bitbufLen → u.par.bitbufLen < r.cursor →
    ∃ t, Host.Core.run core (u.par.bitbufLen - u.cursor + 1) u = .next t ∧ u.EndsInOverrun t

/-- `u'` is `u` after one element more: the state that a step leads to where the element exists, and OVERRUN is raised
where it does not. -/
structure State.ReadsOn (u u' : State) : Prop where
  par : u'.par = u.par
  bitCount : u'.bitCount = u.bitCount
  err : u'.err = u.err
  cursor : u'.cursor = u.cursor + 1
  samplesLe : u.samples ≤ u'.samples
  kept : ∀ j, u'.samples ≤ j → Mem.read? u'.out j = Mem.read? u.out j
  next : u.cursor < u.par.bitbufLen → step u = .next u'
  beyond : u.par.bitbufLen ≤ u.cursor → step u = .next { State.raiseError .overrun u with drawKey := u.drawKey + 1 }

/-- The last step of a command, in the count of steps by elements read. -/
theorem run_last {c c' : Nat} {u t : State} (hc : c = c') (h : step u = .next t) :
    Host.Core.run core (c' - c + 1) u = .next t := by
  rw [hc, Nat.sub_self, run_succ_of_next h, run_zero]

/-- A command computes what it computes after one element more. -/
theorem State.ReadsOn.computes {u u' : State} {lv : Level} {r : WholeResult} (on : u.ReadsOn u')
    (rest : u'.Computes lv r) : u.Computes lv r := by
  obtain ⟨cursorLe, samplesLe, counted, slack, perBit, ends, overruns⟩ := rest
  rw [on.cursor] at cursorLe ends overruns
  rw [on.par] at perBit ends overruns
  rw [on.bitCount] at slack perBit
  refine ⟨Nat.le_of_succ_le cursorLe, on.samplesLe.trans samplesLe, counted, slack, perBit, fun inside => ?_,
    fun within outside => ?_⟩
  · obtain ⟨t, run, e⟩ := ends inside
    have steps : r.cursor - u.cursor + 1 = (r.cursor - (u.cursor + 1) + 1) + 1 := by omega
    exact ⟨t, by rw [steps, run_succ_of_next (on.next (by omega)), run],
      { e with err := e.err.trans on.err, kept := fun j hj => (e.kept j hj).trans (on.kept j (samplesLe.trans hj)) }⟩
  · rcases within.lt_or_eq with below | last
    · obtain ⟨t, run, e⟩ := overruns below outside
      have steps : u.par.bitbufLen - u.cursor + 1 = (u.par.bitbufLen - (u.cursor + 1) + 1) + 1 := by omega
      exact ⟨t, by rw [steps, run_succ_of_next (on.next below), run],
        { e with cursor := e.cursor.trans (by rw [on.par]) }⟩
    · exact ⟨_, run_last last (on.beyond last.ge), ⟨rfl, rfl, rfl, last, rfl⟩⟩

/-- A command that finishes here has the result that it shows. -/
theorem computes_of_finish {u : State} {lv : Level} {c : Bool} {out : List Nat}
    (finish : step u = .next { State.finish c u with drawKey := u.drawKey + 1 }) (counted : out.length = u.samples)
    (written : ∀ j v, out[j]? = some v → Mem.read? u.out j = some v) (slack : u.cursor ≤ u.bitCount + lv.lmax)
    (perBit : u.par.boundCheck = .perBit → u.cursor ≤ u.bitCount) :
    u.Computes lv { cursor := u.cursor, samples := u.samples, complete := c, out := out } where
  cursorLe := le_rfl
  samplesLe := le_rfl
  counted := counted
  slack := slack
  perBit := perBit
  ends _ := ⟨_, run_last rfl finish, ⟨rfl, rfl, rfl, rfl, rfl, rfl, written, fun _ _ => rfl⟩⟩
  overruns within outside := absurd within (Nat.not_le.2 outside)

/-- With nothing pending, a step of a running command is its move. -/
theorem DecMove.step {u t : State} (move : DecMove u t) (running : u.busy = true) (quiet : u.inbox = []) :
    step u = .next t :=
  (step_of_inbox_nil quiet).trans (move.decStep running)

/-! ### The elements that a command reads -/

section
variable {u : State} {lv : Level} {bit : Nat → Bool} {out : List Nat}

/-- From a sample start on, the command reads the bits of `bit`. -/
theorem State.Follows.readBit_inCode (h : u.Follows lv bit out) (sign : Bool) (pre : List Bool)
    (below : (u.inCode sign pre).cursor < u.par.bitbufLen) :
    (u.inCode sign pre).readBit (u.inCode sign pre).cursor = some (bit (u.inCode sign pre).cursor) :=
  readBit_eq_some.2 ⟨below, (h.reads (pre.length + 1)).symm⟩

/-- A sample start that does not stop reads its sign bit. -/
theorem State.Follows.readsOn_sign (h : u.Follows lv bit out) (go : u.sampleStop = false) :
    u.ReadsOn (u.inCode (bit u.cursor) []) where
  par := rfl
  bitCount := rfl
  err := rfl
  cursor := rfl
  samplesLe := le_rfl
  kept _ _ := rfl
  next below :=
    (DecMove.sign h.atSample go _ (readBit_eq_some.2 ⟨below, (h.reads 0).symm⟩)).step h.running h.quiet
  beyond outside :=
    (DecMove.overrun (.inl ⟨h.atSample, go⟩) (readBit_eq_none.2 outside)).step h.running h.quiet

/-- A code bit raises OVERRUN where the element does not exist. -/
theorem State.Follows.overrun_inCode (h : u.Follows lv bit out) {sign : Bool} {pre : List Bool}
    (go : (u.inCode sign pre).exhausted = false) (outside : u.par.bitbufLen ≤ (u.inCode sign pre).cursor) :
    step (u.inCode sign pre) = .next
      { State.raiseError .overrun (u.inCode sign pre) with drawKey := (u.inCode sign pre).drawKey + 1 } :=
  (DecMove.overrun (.inr ⟨rfl, go⟩) (readBit_eq_none.2 outside)).step h.running h.quiet

/-- A code bit that leads to an inner node. -/
theorem State.Follows.readsOn_node (h : u.Follows lv bit out) {sign b : Bool} {pre : List Bool}
    (node : isInternal lv pre.length (val pre) = true) (go : (u.inCode sign pre).exhausted = false)
    (hb : bit (u.inCode sign pre).cursor = b)
    (inner : matchCode lv (pre.length + 1) (2 * val pre + b.toNat) = none) :
    (u.inCode sign pre).ReadsOn (u.inCode sign (pre ++ [b])) where
  par := rfl
  bitCount := rfl
  err := rfl
  cursor := by simp [State.inCode, Nat.add_assoc]
  samplesLe := le_rfl
  kept _ _ := rfl
  next below := by
    obtain ⟨hlen, hacc⟩ := toNat_next_inCode node u sign b
    have bit := hb ▸ h.readBit_inCode sign pre below
    rw [← takeCodeBit_inCode node]
    exact (DecMove.node rfl go b lv bit h.level (by simpa [hlen, hacc, val_concat] using inner)).step h.running h.quiet
  beyond := h.overrun_inCode go

/-- A code bit that completes a code word. -/
theorem State.Follows.readsOn_leaf (h : u.Follows lv bit out) {sign b : Bool} {pre : List Bool} {m : Nat}
    (node : isInternal lv pre.length (val pre) = true) (go : (u.inCode sign pre).exhausted = false)
    (hb : bit (u.inCode sign pre).cursor = b)
    (leaf : matchCode lv (pre.length + 1) (2 * val pre + b.toNat) = some m) (room : u.samples < u.par.outCap) :
    (u.inCode sign pre).ReadsOn (u.afterSymbol sign (pre ++ [b]) (outValue lv m sign)) where
  par := rfl
  bitCount := rfl
  err := rfl
  cursor := by simp [State.afterSymbol, State.inCode, Nat.add_assoc]
  samplesLe := Nat.le_succ _
  kept j hj := Mem.read?_write_of_ne (Nat.ne_of_gt hj)
  next below := by
    obtain ⟨hlen, hacc⟩ := toNat_next_inCode node u sign b
    have bit := hb ▸ h.readBit_inCode sign pre below
    rw [State.afterSymbol, ← takeCodeBit_inCode node]
    have leaf' : matchCode lv (u.inCode sign pre).nextLen.toNat ((u.inCode sign pre).nextAcc b).toNat = some m := by
      simpa [hlen, hacc, val_concat] using leaf
    exact (DecMove.leaf rfl go b lv m bit h.level leaf' room).step h.running h.quiet
  beyond := h.overrun_inCode go

/-- After a whole symbol the command follows the same bits, with one sample more. -/
theorem State.Follows.afterSymbol (h : u.Follows lv bit out) (go : u.sampleStop = false) (sign : Bool)
    {code : List Bool} (v : Nat) (short : code.length ≤ lv.lmax)
    (perBit : u.par.boundCheck = .perBit → u.cursor + (code.length + 1) ≤ u.bitCount) :
    (u.afterSymbol sign code v).Follows lv bit (out ++ [v]) := by
  obtain ⟨unfinished, below⟩ := sampleStop_eq_false.1 go
  exact
    { h with
      atSample := rfl
      reads := fun k => by
        show decide (State.readBits { u with drawKey := u.drawKey + (code.length + 1) + k }
          (u.cursor + (code.length + 1) + k) ≠ 0) = bit (u.cursor + (code.length + 1) + k)
        rw [Nat.add_assoc, Nat.add_assoc u.cursor]
        exact h.reads _
      counted := by simp [State.afterSymbol, h.counted]
      samplesLe := lt_of_le_of_ne h.samplesLe unfinished
      written := fun j w hj => by
        show Mem.read? (Mem.write u.out u.samples v) j = some w
        rw [Mem.read?_write, ← h.counted]
        split_ifs with last
        · simpa [last] using hj
        · have inside := (List.getElem?_eq_some_iff.1 hj).1
          rw [List.length_append, List.length_singleton] at inside
          exact h.written j w (by rwa [List.getElem?_append_left (by omega)] at hj)
      slack := by
        show u.cursor + (code.length + 1) ≤ u.bitCount + lv.lmax
        omega
      perBit := perBit }

end

/-! ### The two loops -/

/-- For at most `rounds` rounds, every sample start computes what `decode_fn` gives from there. -/
def RoundsCompute (lv : Level) (bit : Nat → Bool) (rounds : Nat) : Prop :=
  ∀ (u : State) (out : List Nat), u.Follows lv bit out → u.nout < u.samples + rounds →
    ∃ r, wholeSamples lv u.par.boundCheck u.bitCount u.nout bit rounds u.cursor u.samples out = some r ∧
      u.Computes lv r

/-- The inner loop: inside a code the machine computes what `decode_fn` gives from there. -/
theorem computes_inCode {lv : Level} {bit : Nat → Bool} {rounds : Nat} (ih : RoundsCompute lv bit rounds) {u : State}
    {out : List Nat} (h : u.Follows lv bit out) (go : u.sampleStop = false) (enough : u.nout ≤ u.samples + rounds)
    {sign : Bool} {pre : List Bool} {fuel : Nat} (node : isInternal lv pre.length (val pre) = true)
    (deep : lv.lmax ≤ pre.length + fuel)
    (perBit : u.par.boundCheck = .perBit → u.cursor + (pre.length + 1) ≤ u.bitCount) :
    ∃ r, wholeCode lv u.par.boundCheck u.bitCount u.nout bit rounds fuel (u.cursor + (pre.length + 1)) (val pre)
        pre.length u.samples sign out = some r ∧ (u.inCode sign pre).Computes lv r := by
  obtain ⟨hlen, -, -⟩ := isInternal_bounds node
  obtain ⟨unfinished, below⟩ := sampleStop_eq_false.1 go
  induction fuel generalizing pre with
  | zero => exact absurd deep (Nat.not_le.2 hlen)
  | succ fuel ihf =>
    cases stop : (u.inCode sign pre).exhausted with
    | true =>
      refine ⟨_, wholeCode_of_exhausted (exhausted_eq_true.1 stop), ?_⟩
      exact computes_of_finish ((DecMove.finishCode rfl stop).step h.running h.quiet) h.counted h.written
        (by show u.cursor + (pre.length + 1) ≤ u.bitCount + lv.lmax; omega) perBit
    | false =>
      have more : ¬ (u.par.boundCheck = .perBit ∧ u.bitCount ≤ u.cursor + (pre.length + 1)) :=
        exhausted_eq_false_iff.1 stop
      have perBit' : u.par.boundCheck = .perBit → u.cursor + (pre.length + 1 + 1) ≤ u.bitCount :=
        cursor_lt_bitCount_of_not_exhausted stop
      generalize hb : bit (u.cursor + (pre.length + 1)) = b
      cases found : matchCode lv (pre.length + 1) (2 * val pre + b.toNat) with
      | none =>
        have node' : isInternal lv (pre ++ [b]).length (val (pre ++ [b])) = true := by
          simpa [val_concat, found] using matchCode_isSome_or_isInternal node b
        obtain ⟨r, rest, computes⟩ := ihf node' (by simp; omega) (by simpa using perBit') (isInternal_bounds node').1
        refine ⟨r, ?_, (h.readsOn_node node stop hb found).computes computes⟩
        rw [wholeCode_of_node more (hb ▸ found), hb, ← val_concat]
        simpa [Nat.add_assoc] using rest
      | some m =>
        have symbol := h.afterSymbol go sign (code := pre ++ [b]) (outValue lv m sign) (by simpa using hlen)
          (by simpa using perBit')
        obtain ⟨r, rest, computes⟩ := ih _ _ symbol (by show u.nout < u.samples + 1 + rounds; omega)
        have room : u.samples < u.par.outCap := (lt_of_le_of_ne h.samplesLe unfinished).trans_le h.outFits
        refine ⟨r, ?_, (h.readsOn_leaf node stop hb found room).computes computes⟩
        rw [wholeCode_of_leaf more (hb ▸ found)]
        simpa [State.afterSymbol, State.inCode, Nat.add_assoc] using rest

/-- The outer loop, by induction on its rounds. -/
theorem roundsCompute (lv : Level) (bit : Nat → Bool) (rounds : Nat) : RoundsCompute lv bit rounds := by
  induction rounds with
  | zero => exact fun u out h enough => absurd enough (Nat.not_lt.2 h.samplesLe)
  | succ rounds ih =>
    intro u out h enough
    cases stop : u.sampleStop with
    | true =>
      exact ⟨_, wholeSamples_of_stop (sampleStop_eq_true.1 stop),
        computes_of_finish ((DecMove.finishSample h.atSample stop).step h.running h.quiet) h.counted h.written h.slack
          h.perBit⟩
    | false =>
      obtain ⟨unfinished, below⟩ := sampleStop_eq_false.1 stop
      obtain ⟨r, rest, computes⟩ := computes_inCode ih h stop (by omega) (sign := bit u.cursor) (pre := [])
        (isInternal_root lv) (Nat.le_add_left _ _) fun _ => below
      exact ⟨r, (wholeSamples_of_go unfinished below).trans rest, (h.readsOn_sign stop).computes computes⟩

/-- Settles O34: at its start the command follows the bits of `State.commandBit`, and `roundsCompute` says the rest. -/
theorem stepMachineComputesTheWholeCommand : Obligations.StepMachineComputesTheWholeCommand := by
  intro s lv level running atSample quiet cursor samples bitsFit outFits
  have start : s.Follows lv s.commandBit [] :=
    { running := running, atSample := atSample, quiet := quiet, level := level, bitsFit := bitsFit, outFits := outFits
      reads := fun k => by rw [cursor, Nat.zero_add]; rfl
      counted := samples.symm
      samplesLe := samples.trans_le (Nat.zero_le _)
      written := by simp
      slack := cursor.trans_le (Nat.zero_le _)
      perBit := fun _ => cursor.trans_le (Nat.zero_le _) }
  obtain ⟨r, whole, computes⟩ := roundsCompute lv s.commandBit (s.nout + 1) s [] start (by omega)
  obtain ⟨-, -, counted, slack, perBit, ends, overruns⟩ := computes
  rw [cursor, samples] at whole
  rw [cursor] at ends overruns
  refine ⟨r, whole, counted, slack, perBit, fun inside => ?_, fun outside => ?_⟩
  · obtain ⟨t, run, e⟩ := ends inside
    exact ⟨t, run, e.notBusy, e.done, e.err, e.cursor, e.samples, e.complete, e.written, e.kept⟩
  · obtain ⟨t, run, e⟩ := overruns (Nat.zero_le _) outside
    exact ⟨t, run, e.notBusy, e.done, e.err, e.cursor, e.complete⟩

end Sys2Proof.Machine

namespace Sys2Proof.Machine

/-! SUPPORT. The code tables: the matcher and the canonical leaf test as lookups in a table, and the instruction of a
code word at the last bit of that code word. -/

/-! ## The matchers -/

/-- Settles O4: what the matcher gives stands in the table, and each code word of the table gets its own position. -/
theorem matcherIsTheTableLookup : Obligations.MatcherIsTheTableLookup := fun _ _ _ _ =>
  ⟨matchCode_some, by
    rintro ⟨code, table, rfl, rfl⟩
    exact matchCode_of_table table⟩

/-- The canonical rows list code words only: the `k`-th of a row has the row's length, the value F_L + k and the
magnitude M_L + k (41_code_tables.md R174). -/
theorem table_of_canonicalRow {lv : Level} {len first count start k : Nat}
    (row : (len, first, count, start) ∈ canonicalRows lv) (hk : k < count) :
    ∃ code, lv.table[start + k]? = some code ∧ code.length = len ∧ val code = first + k := by
  have key : ∀ r ∈ canonicalRows lv, ∀ k < r.2.2.1,
      lv.table[r.2.2.2 + k]?.map (fun c => (c.length, val c)) = some (r.1, r.2.1 + k) := by cases lv <;> decide
  simpa using key _ row k hk

/-- What the canonical leaf test gives stands in the table. -/
theorem canonicalMatch_some {lv : Level} {len acc m : Nat} (h : canonicalMatch lv len acc = some m) :
    ∃ code, lv.table[m]? = some code ∧ code.length = len ∧ val code = acc := by
  unfold canonicalMatch at h
  split at h
  · cases h
  · rename_i rowLen first count start found
    split_ifs at h with inside
    obtain ⟨code, table, length, value⟩ :=
      table_of_canonicalRow (List.mem_of_find?_eq_some found) (k := acc - first) (by omega)
    have sameLen : rowLen = len := by simpa using List.find?_some found
    have magnitude : start + (acc - first) = m := by
      rw [← Option.some.inj h]
      omega
    exact ⟨code, magnitude ▸ table, length.trans sameLen, by omega⟩

/-- The canonical leaf test gives each code word of the table its magnitude: no code word is missing from the rows. -/
theorem canonicalMatch_of_table {lv : Level} {m : Nat} {code : List Bool} (h : lv.table[m]? = some code) :
    canonicalMatch lv code.length (val code) = some m := by
  have key : ∀ x ∈ lv.table.zipIdx, canonicalMatch lv x.1.length (val x.1) = some x.2 := by cases lv <;> decide
  exact key (code, m) (List.mk_mem_zipIdx_iff_getElem?.2 h)

/-- The canonical leaf test is the table lookup at every length and value, not only at the nodes of the walk. -/
theorem canonicalMatch_eq_matchCode (lv : Level) (len acc : Nat) :
    canonicalMatch lv len acc = matchCode lv len acc := by
  refine Option.ext fun m => ⟨fun h => ?_, fun h => ?_⟩
  · obtain ⟨code, table, rfl, rfl⟩ := canonicalMatch_some h
    exact matchCode_of_table table
  · obtain ⟨code, table, rfl, rfl⟩ := matchCode_some h
    exact canonicalMatch_of_table table

/-- Settles O5: the two tests are one function, so they agree at the children of the internal nodes. -/
theorem canonicalLeafTestAgreesWithTheMatcher : Obligations.CanonicalLeafTestAgreesWithTheMatcher :=
  fun lv _ _ _ _ => canonicalMatch_eq_matchCode lv _ _

/-! ## The last bit of a code word -/

/-- Where the bit at CURSOR leads to a leaf, the code word of that leaf is the instruction that runs next: the converse
of `nextCodeWord_some`. -/
theorem nextCodeWord_of_leaf {s : State} {b : Bool} {lv : Level} {m : Nat} {i : Instr} (running : s.busy = true)
    (phase : s.phase = .code) (go : s.exhausted = false) (bit : s.readBit s.cursor = some b)
    (level : Level.ofField s.stBrc = some lv) (leaf : matchCode lv s.nextLen.toNat (s.nextAcc b).toNat = some m)
    (row : codeInstr lv m s.signl = some i) : s.nextCodeWord = some i := by
  simp [State.nextCodeWord, running, phase, go, bit, level, leaf, row]

section
variable {s : State} {lv : Level} {sign last : Bool} {pre : List Bool} {m : Nat}

/-- The next node is the one inside a symbol whose sign bit and bits `pre` are read. -/
theorem State.AtLastBit.next_eq_inCode (h : s.AtLastBit lv sign pre last) :
    s.nextLen = (s.inCode sign pre).nextLen ∧ s.nextAcc last = (s.inCode sign pre).nextAcc last := by
  simp [State.nextLen, State.nextAcc, State.inCode, h.lenRead, h.accRead]

/-- The last bit of a code word leads to the node of the whole code word. -/
theorem State.AtLastBit.next_eq (h : s.AtLastBit lv sign pre last) (table : lv.table[m]? = some (pre ++ [last])) :
    s.nextLen = BitVec.ofNat 4 (pre ++ [last]).length ∧ s.nextAcc last = BitVec.ofNat 9 (val (pre ++ [last])) := by
  have taken := takeCodeBit_inCode (isInternal_of_table table (List.cons_ne_nil last [])) s sign last
  obtain ⟨hlen, hacc⟩ := h.next_eq_inCode
  exact ⟨hlen.trans (congrArg State.len taken), hacc.trans (congrArg State.acc taken)⟩

/-- The matcher recognises the code word there (41_code_tables.md R175). -/
theorem State.AtLastBit.leaf (h : s.AtLastBit lv sign pre last) (table : lv.table[m]? = some (pre ++ [last])) :
    matchCode lv s.nextLen.toNat (s.nextAcc last).toNat = some m := by
  obtain ⟨hlen, hacc⟩ := toNat_next_inCode (isInternal_of_table table (List.cons_ne_nil last [])) s sign last
  rw [h.next_eq_inCode.1, h.next_eq_inCode.2, hlen, hacc]
  exact matchCode_of_table table

/-- At the last bit of its code word, the instruction of a row writes the row's output value: it is the code-bit step of
40_decode_operation.md R94 at a leaf. -/
theorem State.AtLastBit.exec_codeWord {i : Instr} (h : s.AtLastBit lv sign pre last)
    (row : i.codeWord = some (lv, m, sign)) (table : lv.table[m]? = some (pre ++ [last])) :
    exec i s = .next (s.afterCode (pre ++ [last]) (outValue lv m sign)) := by
  obtain rfl := h.signRead
  have go : s.exhausted = false :=
    exhausted_eq_false_iff.2 fun ⟨perBit, used⟩ => (h.inBound perBit).not_ge used
  have level : Level.ofField s.stBrc = some lv := by rw [h.level, Level.ofField_field]
  have recognised : s.nextCodeWord = some i :=
    nextCodeWord_of_leaf h.running h.inCode go h.lastBit level (h.leaf table)
      (encode_of_codeWord row).1
  obtain ⟨hlen, hacc⟩ := h.next_eq table
  calc exec i s
      = s.decStep := (decStep_of_nextCodeWord recognised).symm
    _ = s.codeBitStep := decStep_of_code h.running h.inCode
    _ = State.writeSample (outValue lv m s.signl) (State.takeCodeBit last s) :=
        codeBitStep_of_leaf go h.lastBit level (h.leaf table)
    _ = State.commit { State.takeCodeBit last s with
          out := Mem.write s.out s.samples (outValue lv m s.signl), samples := s.samples + 1, phase := .sign } :=
        if_pos h.room
    _ = .next (s.afterCode (pre ++ [last]) (outValue lv m s.signl)) := by
        rw [State.takeCodeBit, hlen, hacc]
        rfl

end

/-! ## The code words of the five levels

Each part is `State.AtLastBit.exec_codeWord` for one row: the row's level and magnitude, and its code word in the table,
hold by evaluation. -/

/-- Settles O26, row by row of the BRC0 table. -/
theorem brc0CodeWordsWriteTheirOutput : Obligations.Brc0CodeWordsWriteTheirOutput := by
  intro s sign
  and_intros <;> exact fun h => h.exec_codeWord rfl rfl

/-- Settles O27, row by row of the BRC1 table. -/
theorem brc1CodeWordsWriteTheirOutput : Obligations.Brc1CodeWordsWriteTheirOutput := by
  intro s sign
  and_intros <;> exact fun h => h.exec_codeWord rfl rfl

/-- Settles O28, row by row of the BRC2 table. -/
theorem brc2CodeWordsWriteTheirOutput : Obligations.Brc2CodeWordsWriteTheirOutput := by
  intro s sign
  and_intros <;> exact fun h => h.exec_codeWord rfl rfl

/-- Settles O29, row by row of the BRC3 table. -/
theorem brc3CodeWordsWriteTheirOutput : Obligations.Brc3CodeWordsWriteTheirOutput := by
  intro s sign
  and_intros <;> exact fun h => h.exec_codeWord rfl rfl

/-- Settles O30, row by row of the BRC4 table. -/
theorem brc4CodeWordsWriteTheirOutput : Obligations.Brc4CodeWordsWriteTheirOutput := by
  intro s sign
  and_intros <;> exact fun h => h.exec_codeWord rfl rfl

end Sys2Proof.Machine

namespace Sys2Proof.Machine

/-! SUPPORT. The host interface: what each transaction answers in each of its cases, the registers as they read, and
which transitions can clear the outcome of a command. -/

/-! ## Command words -/

/-- The row of a command word is the one of its START bit and its BRC field (30_encoding.md R71). -/
theorem decodeCmd_of_command {w : CmdWord} {i : Instr} (row : i.command = some (w.getLsbD 31, w.extractLsb' 0 3)) :
    decodeCmd w = i := by
  cases i <;> simp only [Instr.command, Option.some.injEq, Prod.mk.injEq, reduceCtorEq] at row <;>
    (obtain ⟨start, brc⟩ := row; simp only [decodeCmd, ← start, ← brc]; rfl)

/-- A 32-bit value written to register 0 is a command word (30_encoding.md R70). -/
theorem decodeTxn_hwr_zero (w : CmdWord) : decodeTxn (.hwr 0 w.toNat) = decodeCmd w := by
  simp [decodeTxn, w.isLt]

/-- While idle, a write of CMD without START stores its BRC field (42_host_interface.md R192). -/
theorem writeCmd_of_set {s : State} (idle : s.busy = false) (brc : BrcField) :
    State.writeCmd false brc s = .next { s with cmdBrc := brc, drawKey := s.drawKey + 1 } := by
  simp [State.writeCmd, idle, State.commit]

/-- Settles O11: the row of the command word is that of its START bit and BRC field, and both the word and the row are
that write of CMD. -/
theorem commandWordWriteSelectsItsOperation : Obligations.CommandWordWriteSelectsItsOperation := fun s w idle => by
  refine ⟨fun start x hx brc => ?_, fun start => ⟨?_, ?_, ?_⟩⟩
  · have row : x.1.command = some (true, x.2) := by
      clear brc
      revert x
      decide
    exact ⟨by rw [exec_hwr_zero, exec_of_command row, start, brc],
      (decodeTxn_hwr_zero w).trans (decodeCmd_of_command (by rw [row, start, brc]))⟩
  · rw [exec_hwr_zero, start]
    exact writeCmd_of_set idle _
  · exact writeCmd_of_set idle _
  · exact (decodeTxn_hwr_zero w).trans (decodeCmd_of_command (by rw [start]; rfl))

/-! ## Register writes -/

/-- A value wider than its register is refused, busy or not (42_host_interface.md R191). -/
theorem execHwr_of_wide {s : State} {n v : Nat} (wide : regValueFits s.par n v = false) :
    execHwr n v s = .refused .valueTooWide := by
  simp [execHwr, State.writeReg, wide]

/-- HWR of a read-only or unimplemented register has no effect (42_host_interface.md R195). -/
theorem execHwr_of_readOnly {n : Nat} (hn : 3 ≤ n) (v : Nat) (s : State) : execHwr n v s = .next s := by
  obtain ⟨k, rfl⟩ := Nat.exists_eq_add_of_le' hn
  rfl

/-- While idle, HWR 1 stores a value of BIT_COUNT's width (42_host_interface.md R193). -/
theorem execHwr_bitCount {s : State} {v : Nat} (idle : s.busy = false) (fits : Fits s.par.wCnt v) :
    execHwr 1 v s = .next { s with bitCount := v, drawKey := s.drawKey + 1 } := by
  simp [execHwr, State.writeReg, regValueFits, fits, idle, State.commit]

/-- While idle, HWR 2 stores a value of NOUT's width (42_host_interface.md R194). -/
theorem execHwr_nout {s : State} {v : Nat} (idle : s.busy = false) (fits : Fits s.par.wCnt v) :
    execHwr 2 v s = .next { s with nout := v, drawKey := s.drawKey + 1 } := by
  simp [execHwr, State.writeReg, regValueFits, fits, idle, State.commit]

/-- Settles O13, by the write of each count. -/
theorem countWritesStoreTheirValue : Obligations.CountWritesStoreTheirValue := fun _ _ idle fits =>
  ⟨execHwr_bitCount idle fits, execHwr_nout idle fits⟩

/-! ## What clears the outcome of a command -/

/-- From `s` to `t` neither STATUS.DONE is cleared nor STATUS.ERR taken back to no error. -/
def State.KeepsOutcome (s t : State) : Prop :=
  (s.done = true → t.done = true) ∧ (s.err ≠ .noError → t.err ≠ .noError)

/-- The moves that end a command set DONE, and the one that raises an error sets ERR; no other move touches them. -/
theorem DecMove.keepsOutcome {s t : State} (move : DecMove s t) : s.KeepsOutcome t := by
  cases move with
  | finishSample | finishCode => exact ⟨fun _ => rfl, id⟩
  | overrun => exact ⟨fun _ => rfl, nofun⟩
  | sign | node | leaf => exact ⟨id, id⟩

theorem decStep_keepsOutcome {s t : State} (h : s.decStep = .next t) : s.KeepsOutcome t := by
  by_cases hb : s.busy = true
  · exact (decMove_of_decStep hb h).keepsOutcome
  · obtain rfl : s = t := Host.Outcome.next.inj ((decStep_of_idle (by simpa using hb)).symm.trans h)
    exact ⟨id, id⟩

/-- The rows that START a command. -/
def startRows : List Instr :=
  [.decodeBrc0, .decodeBrc1, .decodeBrc2, .decodeBrc3, .decodeBrc4, .decodeBrc5, .decodeBrc6, .decodeBrc7]

theorem decodeCmd_mem_startRows {w : CmdWord} (start : w.getLsbD 31 = true) : decodeCmd w ∈ startRows := by
  rw [decodeCmd, if_pos start]
  split <;> simp [startRows]

/-- A command word without START keeps the outcome: CMD.SET writes CMD.BRC alone (42_host_interface.md R192). -/
theorem decodeCmd_keepsOutcome {w : CmdWord} (row : decodeCmd w ∉ startRows) {s t : State}
    (h : exec (decodeCmd w) s = .next t) : s.KeepsOutcome t := by
  have noStart : w.getLsbD 31 = false := by
    simpa using fun start => row (decodeCmd_mem_startRows start)
  have set : decodeCmd w = .cmdSet (w.extractLsb' 0 3) := decodeCmd_of_command (by rw [noStart]; rfl)
  rw [set] at h
  rcases writeCmd_next h with ⟨-, rfl⟩ | ⟨-, start, -⟩ | ⟨-, -, rfl⟩
  · exact ⟨id, id⟩
  · cases start
  · exact ⟨id, id⟩

theorem hwr_keepsOutcome {n v : Nat} (row : decodeTxn (.hwr n v) ∉ startRows) {s t : State}
    (h : exec (decodeTxn (.hwr n v)) s = .next t) : s.KeepsOutcome t := by
  by_cases hn : n = 0
  · subst hn
    by_cases fits : Fits 32 v
    · have word : decodeTxn (.hwr 0 v) = decodeCmd (BitVec.ofNat 32 v) := if_pos ⟨rfl, fits⟩
      rw [word] at row h
      exact decodeCmd_keepsOutcome row h
    · have ill : decodeTxn (.hwr 0 v) = .hwr 0 v := if_neg fun both => fits both.2
      rw [ill] at h
      cases (execHwr_of_wide (n := 0) (decide_eq_false fits)).symm.trans h
  · rw [decodeTxn_hwr_of_ne hn] at h
    rw [(execHwr_frame hn h).1]
    exact ⟨id, id⟩

/-- A host transaction that is no START clears neither DONE nor ERR. -/
theorem txn_keepsOutcome {x : Txn} (row : decodeTxn x ∉ startRows) {s t : State}
    (h : exec (decodeTxn x) s = .next t) : s.KeepsOutcome t := by
  cases x with
  | hwr n v => exact hwr_keepsOutcome row h
  | hrd n => rw [hostRead_frame ⟨n, .inl rfl⟩ h]; exact ⟨id, id⟩
  | brd i => rw [hostRead_frame ⟨i, .inr (.inl rfl)⟩ h]; exact ⟨id, id⟩
  | ord j => rw [hostRead_frame ⟨j, .inr (.inr rfl)⟩ h]; exact ⟨id, id⟩
  | bwr i v => rw [(execBwr_frame h).1]; exact ⟨id, id⟩
  | owr j v => rw [(execOwr_frame h).1]; exact ⟨id, id⟩

/-- A step keeps the outcome of the latest command, or is that of a pending reset or START. -/
theorem step_keepsOutcome {s t : State} (h : step s = .next t) :
    s.KeepsOutcome t ∨
      ∃ rest, s.inbox = .reset :: rest ∨ ∃ x, s.inbox = .txn x :: rest ∧ decodeTxn x ∈ startRows := by
  rcases step_next h with ⟨-, h⟩ | ⟨rest, ⟨x, pending, h⟩ | ⟨-, h⟩ | ⟨pending, -⟩⟩
  · exact .inl (decStep_keepsOutcome h)
  · by_cases row : decodeTxn x ∈ startRows
    · exact .inr ⟨rest, .inr ⟨x, pending, row⟩⟩
    · exact .inl (txn_keepsOutcome (s := { s with inbox := rest }) row h)
  · exact .inl (decStep_keepsOutcome (s := { s with inbox := rest }) h)
  · exact .inr ⟨rest, .inl pending⟩

/-- Settles O14, by `execHwr_of_readOnly` and `step_keepsOutcome`. -/
theorem readOnlyRegisterWritesHaveNoEffect : Obligations.ReadOnlyRegisterWritesHaveNoEffect := by
  refine ⟨fun s n v hn => execHwr_of_readOnly hn v s, fun s t h cleared => ?_⟩
  rcases step_keepsOutcome h with ⟨keepsDone, keepsErr⟩ | pending
  · rcases cleared with ⟨done, cleared⟩ | ⟨err, cleared⟩
    · exact absurd (keepsDone done) (by simp [cleared])
    · exact absurd cleared (keepsErr err)
  · exact pending

/-! ## Register reads -/

/-- A concatenation as a number: the upper part stands above the bits of the lower one. -/
theorem toNat_append_eq_add {m n : Nat} (x : BitVec m) (y : BitVec n) :
    (x ++ y).toNat = 2 ^ n * x.toNat + y.toNat := by
  rw [BitVec.toNat_append, ← Nat.shiftLeft_add_eq_or_of_lt y.isLt, Nat.shiftLeft_eq, Nat.mul_comm]

/-- The STATUS fields at their bits (10_state.md R24). -/
theorem statusWord_toNat (s : State) :
    s.statusWord.toNat = s.busy.toNat + 2 * s.done.toNat + 4 * s.complete.toNat + 16 * s.err.code.toNat +
      256 * (modeBit s.par).toNat + 65536 * s.stBrc.toNat := by
  simp only [State.statusWord, toNat_append_eq_add, BitVec.toNat_ofBool, BitVec.toNat_ofNat]
  omega

/-- Settles O16, register by register; STATUS by `statusWord_toNat`. -/
theorem registerReadsGiveTheRegister : Obligations.RegisterReadsGiveTheRegister := fun s n => by
  refine congrArg (fun v => Host.Outcome.next { s with reply := some v }) (?_ : s.readReg n = _)
  match n with
  | 0 => exact readReg_zero s
  | 1 | 2 | 4 | 5 | 6 => rfl
  | 3 =>
    refine (statusWord_toNat s).trans ?_
    cases s.err <;> rcases hb : s.par.boundCheck <;> simp [modeBit, hb, ErrCode.code]
  | n + 7 => rfl

/-! ## Element writes -/

/-- While idle, BWR stores a value of the width at an index of BITS (42_host_interface.md R197). -/
theorem execBwr_of_idle {s : State} {i v : Nat} (idle : s.busy = false) (index : i < s.par.bitbufLen)
    (fits : Fits s.par.elemW v) :
    execBwr i v s = .next { s with bits := Mem.write s.bits i v, drawKey := s.drawKey + 1 } := by
  simp [execBwr, index, fits, idle, State.commit]

/-- While idle, OWR stores a value of the width at an index of OUT (42_host_interface.md R199). -/
theorem execOwr_of_idle {s : State} {j v : Nat} (idle : s.busy = false) (index : j < s.par.outCap)
    (fits : Fits s.par.outW v) :
    execOwr j v s = .next { s with out := Mem.write s.out j v, drawKey := s.drawKey + 1 } := by
  simp [execOwr, index, fits, idle, State.commit]

/-- Settles O17: the memory after the write reads by `Mem.read?_write`. -/
theorem bitsWriteStoresOneElement : Obligations.BitsWriteStoresOneElement := fun s i v idle index fits =>
  ⟨Mem.write s.bits i v, execBwr_of_idle idle index fits, fun a => Mem.read?_write s.bits i a v⟩

/-- Settles O18: the memory after the write reads by `Mem.read?_write`. -/
theorem outWriteStoresOneElement : Obligations.OutWriteStoresOneElement := fun s j v idle index fits =>
  ⟨Mem.write s.out j v, execOwr_of_idle idle index fits, fun a => Mem.read?_write s.out j a v⟩

/-! ## Element reads -/

/-- The draw for an unwritten BITS element has the element's width (20_memory.md R52). -/
theorem readBits_fits_of_unwritten {s : State} {i : Nat} (h : Mem.read? s.bits i = none) :
    Fits s.par.elemW (s.readBits i) := by
  simpa [State.readBits, h] using (Config.freeBits s.par.elemW s.drawKey i).isLt

/-- The draw for an unwritten OUT element has the element's width (42_host_interface.md R200). -/
theorem readOut_fits_of_unwritten {s : State} {j : Nat} (h : Mem.read? s.out j = none) :
    Fits s.par.outW (s.readOut j) := by
  simpa [State.readOut, h] using (Config.freeOut s.par.outW s.drawKey j).isLt

/-- Settles O19: the reply is `State.readBits` or `State.readOut`, a written element's value or a draw of the width. -/
theorem elementReadsGiveTheElement : Obligations.ElementReadsGiveTheElement :=
  ⟨fun s i index => ⟨s.readBits i, if_pos index, fun _ => readBits_of_read?, readBits_fits_of_unwritten⟩,
    fun s j index => ⟨s.readOut j, if_pos index, fun _ => readOut_of_read?, readOut_fits_of_unwritten⟩⟩

/-! ## Refusals -/

/-- Settles O21: the index is checked before the value and BUSY. -/
theorem hostIndexBeyondAMemoryIsRefused : Obligations.HostIndexBeyondAMemoryIsRefused := fun _ _ _ =>
  ⟨fun beyond => ⟨if_neg (Nat.not_lt.2 beyond), if_neg (Nat.not_lt.2 beyond)⟩,
    fun beyond => ⟨if_neg (Nat.not_lt.2 beyond), if_neg (Nat.not_lt.2 beyond)⟩⟩

/-- A code word that the next code-bit step does not recognise is refused (41_code_tables.md R175). -/
theorem exec_of_not_recognised {s : State} {i : Instr} (row : i.codeWord.isSome = true)
    (other : s.nextCodeWord ≠ some i) : exec i s = .refused .codeWordNotRecognised := by
  obtain ⟨⟨lv, m, sign⟩, hi⟩ := Option.isSome_iff_exists.1 row
  exact (exec_of_codeWord hi s).trans (if_neg other)

/-- Settles O22: the width is checked before BUSY, and a code word by `exec_of_not_recognised`. -/
theorem otherStopsAreByName : Obligations.OtherStopsAreByName :=
  ⟨fun _ _ wide => execHwr_of_wide (decide_eq_false wide),
    fun _ _ wide => ⟨execHwr_of_wide (decide_eq_false wide), execHwr_of_wide (decide_eq_false wide)⟩,
    fun _ _ _ index wide => (if_pos index).trans (if_neg wide),
    fun _ _ _ index wide => (if_pos index).trans (if_neg wide),
    fun _ _ => exec_of_not_recognised⟩

end Sys2Proof.Machine

namespace Sys2Proof.Machine

/-! SUPPORT. Errors and the record of outcomes: a START that is rejected, the one way to OVERRUN, and the ghost list. -/

/-! ## A START that is rejected -/

/-- `s` after a START that ends at once with the error `e` (40_decode_operation.md R91, 60_exceptions.md R211). -/
def State.rejected (brc : BrcField) (e : ErrCode) (s : State) : State :=
  { s with
    cmdBrc := brc, stBrc := brc, done := true, complete := false, err := e, cursor := 0, samples := 0,
    busy := false, phase := .idle,
    ghost := s.ghost ++ [⟨brc, s.bitCount, s.nout, .ended 0 0 false e⟩], drawKey := s.drawKey + 1 }

/-- While idle, the command row of a START that raises an error answers the rejected state. -/
theorem exec_of_rejected {s : State} (idle : s.busy = false) {i : Instr} {brc : BrcField} {e : ErrCode}
    (row : i.command = some (true, brc)) (raises : State.start brc s = State.raiseError e (State.latch brc s)) :
    exec i s = .next (s.rejected brc e) := by
  rw [exec_of_command row, writeCmd_of_start idle, raises]
  rfl

/-- A reserved level is checked first, before the counts (60_exceptions.md R212, R215). -/
theorem start_of_reserved {brc : BrcField} (reserved : 4 < brc.toNat) (s : State) :
    State.start brc s = State.raiseError .brcInvalid (State.latch brc s) :=
  if_pos reserved

/-- A level's START with a count beyond its memory raises RANGE (60_exceptions.md R213). -/
theorem start_of_range {brc : BrcField} (level : brc.toNat ≤ 4) {s : State}
    (beyond : s.par.bitbufLen < s.bitCount ∨ s.par.outCap < s.nout) :
    State.start brc s = State.raiseError .range (State.latch brc s) :=
  (if_neg (Nat.not_lt.2 level)).trans (if_pos beyond)

/-- Settles O9, by `exec_of_rejected`: the rejected state is idle, so DEC has no step there. -/
theorem reservedLevelsEndAtOnce : Obligations.ReservedLevelsEndAtOnce := fun s idle x hx => by
  obtain ⟨row, reserved⟩ : x.1.command = some (true, x.2) ∧ 4 < x.2.toNat := by
    revert x
    decide
  exact ⟨s.rejected x.2 .brcInvalid, rfl, exec_of_rejected idle row (start_of_reserved reserved s),
    decStep_of_idle rfl⟩

/-- Settles O10, by `exec_of_rejected`. -/
theorem countsBeyondTheMemoriesRaiseRange : Obligations.CountsBeyondTheMemoriesRaiseRange :=
  fun s idle beyond x hx => by
    obtain ⟨row, level⟩ : x.1.command = some (true, x.2) ∧ x.2.toNat ≤ 4 := by
      revert x
      decide
    exact exec_of_rejected idle row (start_of_range level beyond)

/-! ## OVERRUN -/

/-- A running command's DEC step meets an element that does not exist only at a code bit, in SAMPLE_BOUNDARY mode, at the
first index beyond BITS: BIT_COUNT is within BITS, and a sign bit and a PER_BIT code bit are read below BIT_COUNT
(60_exceptions.md R214). -/
theorem State.Inv.inCode_of_beyond {s : State} (h : s.Inv) (hb : s.busy = true) (reading : s.Reading)
    (beyond : s.readBit s.cursor = none) :
    s.phase = .code ∧ s.par.boundCheck = .sampleBoundary ∧ s.cursor = s.par.bitbufLen ∧ s.bitCount ≤ s.cursor := by
  have outside : s.par.bitbufLen ≤ s.cursor := readBit_eq_none.1 beyond
  have slack : s.bitCount ≤ s.cursor := (h.runningCounts hb).1.trans outside
  rcases reading with ⟨-, go⟩ | ⟨phase, go⟩
  · exact absurd slack (Nat.not_le.2 (sampleStop_eq_false.1 go).2)
  · refine ⟨phase, ?_, h.cursorBound.antisymm outside, slack⟩
    cases mode : s.par.boundCheck with
    | sampleBoundary => rfl
    | perBit => exact absurd slack (Nat.not_le.2 (cursor_lt_bitCount_of_not_exhausted go mode))

/-- Settles O40: of the moves of a DEC step only `DecMove.overrun` sets ERR, and `State.Inv.inCode_of_beyond` says where
it can happen. -/
theorem overrunIsPrecise : Obligations.OverrunIsPrecise := by
  refine ⟨fun s t lv h hb level hs overrun => ?_, fun s h phase mode outside => ?_⟩
  · cases decMove_of_decStep hb hs with
    | overrun reading beyond =>
      obtain ⟨phase, mode, atEnd, slack⟩ := h.inCode_of_beyond hb reading beyond
      exact ⟨phase, mode, atEnd, rfl, slack, atEnd ▸ h.cursor_lt_of_code phase level, rfl, rfl, rfl, rfl, rfl⟩
    | finishSample | finishCode | sign | node | leaf => cases (h.err_of_busy hb).symm.trans overrun
  · have go : s.exhausted = false := exhausted_eq_false_iff.2 (by simp [mode])
    have running : s.busy = true := h.busy_of_phase (by simp [phase])
    exact ⟨_, (DecMove.overrun (.inr ⟨phase, go⟩) (readBit_eq_none.2 outside)).decStep running, rfl⟩

/-! ## The record of outcomes -/

/-- From `s` to `t` the ghost list only grows and the parameters stay; and where a running command ends, the list gains
that command alone, with the outcome that `t` shows (60_exceptions.md R225). -/
structure State.Records (s t : State) : Prop where
  grows : s.ghost <+: t.ghost
  par : t.par = s.par
  ended : s.busy = true → t.busy = false →
    t.ghost = s.ghost ++ [⟨s.stBrc, s.bitCount, s.nout, .ended t.cursor t.samples t.complete t.err⟩]

theorem State.Records.of_unchanged {s t : State} (ghost : t.ghost = s.ghost) (par : t.par = s.par)
    (busy : t.busy = s.busy) : s.Records t where
  grows := ghost ▸ List.prefix_rfl
  par := par
  ended running stopped := by simp [busy, running] at stopped

/-- The three moves that end a command record it; the others leave BUSY and the ghost list. -/
theorem DecMove.records {s t : State} (move : DecMove s t) : s.Records t := by
  cases move with
  | finishSample | finishCode | overrun => exact ⟨List.prefix_append _ _, rfl, fun _ _ => rfl⟩
  | sign | node | leaf => exact .of_unchanged rfl rfl rfl

theorem decStep_records {s t : State} (h : s.decStep = .next t) : s.Records t := by
  by_cases hb : s.busy = true
  · exact (decMove_of_decStep hb h).records
  · obtain rfl : s = t := Host.Outcome.next.inj ((decStep_of_idle (by simpa using hb)).symm.trans h)
    exact .of_unchanged rfl rfl rfl

/-- A START keeps the parameters and at most adds to the ghost list (40_decode_operation.md R91). -/
theorem start_ghost_par (brc : BrcField) (s : State) :
    s.ghost <+: (State.start brc s).ghost ∧ (State.start brc s).par = s.par := by
  rcases start_cases brc s with ⟨-, e⟩ | ⟨-, -, e⟩ | ⟨-, -, -, e⟩
  · exact e ▸ ⟨List.prefix_append _ _, rfl⟩
  · exact e ▸ ⟨List.prefix_append _ _, rfl⟩
  · exact e ▸ ⟨List.prefix_rfl, rfl⟩

/-- No instruction ends a running command: a START needs an idle machine, and the other effects leave BUSY. -/
theorem Effect.records {s t : State} (effect : Effect s t) : s.Records t := by
  cases effect with
  | start brc idle =>
    obtain ⟨grows, par⟩ := start_ghost_par brc s
    exact ⟨grows, par, fun running => by simp [idle] at running⟩
  | same | reply | setBrc | setBitCount | setNout | writeBits | writeOut | code => exact .of_unchanged rfl rfl rfl

theorem applyReset_ghost_prefix (s : State) : s.ghost <+: s.applyReset.ghost := by
  rw [State.applyReset_ghost]
  split
  · exact List.prefix_append _ _
  · exact List.prefix_rfl

/-- A step is that of a pending reset, or meets `State.Records`. -/
theorem step_records {s t : State} (h : step s = .next t) :
    (s.inbox.head? ≠ some .reset ∧ s.Records t) ∨
    ∃ rest, s.inbox = .reset :: rest ∧
      t = { State.applyReset { s with inbox := rest } with drawKey := s.drawKey + 1 } := by
  rcases step_next h with ⟨quiet, h⟩ | ⟨rest, ⟨x, pending, h⟩ | ⟨pending, h⟩ | ⟨pending, ht⟩⟩
  · exact .inl ⟨by simp [quiet], decStep_records h⟩
  · exact .inl ⟨by simp [pending], { (exec_effect h).records with }⟩
  · exact .inl ⟨by simp [pending], { decStep_records h with }⟩
  · exact .inr ⟨rest, pending, ht⟩

/-- Settles O49, by `step_records`; a reset records a running command as ended by reset (70_reset_and_hazards.md
R241). -/
theorem ghostListKeepsEveryOutcome : Obligations.GhostListKeepsEveryOutcome := fun s t h => by
  rcases step_records h with ⟨noReset, grows, par, ended⟩ | ⟨rest, pending, rfl⟩
  · exact ⟨grows, par, fun running stopped => .inr ⟨noReset, ended running stopped⟩⟩
  · exact ⟨applyReset_ghost_prefix _, rfl, fun running _ => .inl ⟨by simp [pending], if_pos running⟩⟩

end Sys2Proof.Machine

namespace Sys2Proof.Machine

/-! SUPPORT. Reset and hazards: what a running command drops, the move that it always has, its end within bounds, and
the absence of faults. -/

/-! ## Reset -/

/-- Settles O46, by `inv_resetOf`, whose parameters may be the standard ones. -/
theorem resetMeetsTheInvariant : Obligations.ResetMeetsTheInvariant :=
  ⟨fun _ events valid => inv_resetOf valid events, inv_resetOf (p := Params.standard) (by decide) []⟩

/-- What the registers read does not depend on the model's own fields, which a reset keeps: they read as in the reset
state (70_reset_and_hazards.md R240). -/
theorem readReg_applyReset (s : State) (n k : Nat) :
    State.readReg { s.applyReset with drawKey := k } n = (State.resetOf s.par).readReg n := rfl

/-- Settles O51: the pending reset answers `State.applyReset`, whose fields are the reset values. -/
theorem resetTransition : Obligations.ResetTransition := fun s rest pending =>
  ⟨_, step_of_inbox_cons pending, rfl, rfl, rfl, rfl, rfl, rfl, rfl, rfl, rfl, rfl, rfl, rfl, rfl, rfl,
    fun _ => ⟨rfl, rfl⟩, rfl, rfl,
    (readReg_applyReset { s with inbox := rest } 3 _).trans ((readReg_resetOf s.par 3).trans (by simp))⟩

/-! ## Writes while busy -/

/-- While busy, a write of CMD is dropped, START or not (42_host_interface.md R191). -/
theorem writeCmd_of_busy {s : State} (running : s.busy = true) (start : Bool) (brc : BrcField) :
    State.writeCmd start brc s = .next s :=
  if_pos running

/-- While busy, HWR of a value of the register's width is dropped (42_host_interface.md R191). -/
theorem execHwr_of_busy {s : State} (running : s.busy = true) {n v : Nat} (fits : regValueFits s.par n v = true) :
    execHwr n v s = .next s := by
  refine (if_pos fits).trans ?_
  match n with
  | 0 => exact writeCmd_of_busy running _ _
  | 1 | 2 => exact if_pos running
  | n + 3 => rfl

/-- A well-formed HWR has a value of the register's width. -/
theorem regValueFits_of_wf {p : Params} {n v : Nat} (wf : Instr.WF p (.hwr n v) = true) :
    regValueFits p n v = true := by
  match n with
  | 0 => simp [Instr.WF] at wf
  | 1 | 2 => simpa [Instr.WF, regValueFits] using wf
  | n + 3 => rfl

/-- While busy, BWR of a value of the width at an index of BITS is dropped (42_host_interface.md R197). -/
theorem execBwr_of_busy {s : State} (running : s.busy = true) {i v : Nat}
    (wf : Instr.WF s.par (.bwr i v) = true) : execBwr i v s = .next s := by
  obtain ⟨index, fits⟩ : i < s.par.bitbufLen ∧ Fits s.par.elemW v := by simpa [Instr.WF] using wf
  exact (if_pos index).trans ((if_pos fits).trans (if_pos running))

/-- While busy, OWR of a value of the width at an index of OUT is dropped (42_host_interface.md R199). -/
theorem execOwr_of_busy {s : State} (running : s.busy = true) {j v : Nat}
    (wf : Instr.WF s.par (.owr j v) = true) : execOwr j v s = .next s := by
  obtain ⟨index, fits⟩ : j < s.par.outCap ∧ Fits s.par.outW v := by simpa [Instr.WF] using wf
  exact (if_pos index).trans ((if_pos fits).trans (if_pos running))

/-- Settles O15, by the lemma on each kind of write. -/
theorem busyDropsEveryWrite : Obligations.BusyDropsEveryWrite := fun s running => by
  refine ⟨fun i hi => ?_, fun b => writeCmd_of_busy running _ _,
    fun v fits => execHwr_of_busy running (decide_eq_true fits),
    fun n v wf => execHwr_of_busy running (regValueFits_of_wf wf),
    fun i v => execBwr_of_busy running, fun j v => execOwr_of_busy running⟩
  obtain ⟨brc, row⟩ := exists_command_of_decode hi
  exact (exec_of_command row s).trans (writeCmd_of_busy running _ _)

/-! ## A running command always has a move -/

/-- A DEC step that needs the element at CURSOR has a move: OVERRUN where the element does not exist, a sign bit, or a
code bit. A completed code word has room in OUT, because a sample begins only with SAMPLES < NOUT and NOUT is within OUT
(20_memory.md R55). -/
theorem State.Inv.exists_move_of_reading {s : State} (h : s.Inv) (hb : s.busy = true) (reading : s.Reading) :
    ∃ t, DecMove s t := by
  rcases bit : s.readBit s.cursor with _ | b
  · exact ⟨_, .overrun reading bit⟩
  · rcases reading with ⟨phase, go⟩ | ⟨phase, go⟩
    · exact ⟨_, .sign phase go b bit⟩
    · obtain ⟨lv, level⟩ := h.level hb
      have room : s.samples < s.par.outCap := (h.codeSamples phase).trans_le (h.runningCounts hb).2
      rcases leaf : matchCode lv s.nextLen.toNat (s.nextAcc b).toNat with _ | m
      · exact ⟨_, .node phase go b lv bit level leaf⟩
      · exact ⟨_, .leaf phase go b lv m bit level leaf room⟩

/-- A running command has a move: it ends where a stop condition holds, and otherwise needs the element at CURSOR
(70_reset_and_hazards.md R253). -/
theorem State.Inv.exists_move {s : State} (h : s.Inv) (hb : s.busy = true) : ∃ t, DecMove s t := by
  rcases phase : s.phase with _ | _ | _
  · exact absurd phase (h.busyPhase.1 hb)
  · rcases stop : s.sampleStop with _ | _
    · exact h.exists_move_of_reading hb (.inl ⟨phase, stop⟩)
    · exact ⟨_, .finishSample phase stop⟩
  · rcases stop : s.exhausted with _ | _
    · exact h.exists_move_of_reading hb (.inr ⟨phase, stop⟩)
    · exact ⟨_, .finishCode phase stop⟩

theorem State.Inv.exists_decStep {s : State} (h : s.Inv) (hb : s.busy = true) : ∃ t, s.decStep = .next t := by
  obtain ⟨t, move⟩ := h.exists_move hb
  exact ⟨t, move.decStep hb⟩

/-! ## A running command ends -/

/-- A move of a running command ends it and reads no element, or reads the element at CURSOR and goes on
(40_decode_operation.md R104). -/
theorem DecMove.ends_or_advances {s t : State} (move : DecMove s t) :
    (t.busy = false ∧ t.done = true ∧ t.cursor = s.cursor) ∨ (t.busy = s.busy ∧ t.cursor = s.cursor + 1) := by
  cases move with
  | finishSample | finishCode | overrun => exact .inl ⟨rfl, rfl, rfl⟩
  | sign | node | leaf => exact .inr ⟨rfl, rfl⟩

/-- While a command runs, at most LMAX elements at or beyond BIT_COUNT have been read (40_decode_operation.md R106). -/
theorem State.Inv.cursor_le_of_busy {s : State} (h : s.Inv) (hb : s.busy = true) {lv : Level}
    (level : Level.ofField s.stBrc = some lv) : s.cursor ≤ s.bitCount + lv.lmax := by
  rcases phase : s.phase with _ | _ | _
  · exact absurd phase (h.busyPhase.1 hb)
  · exact h.signCursor phase lv level
  · exact (h.cursor_lt_of_code phase level).le

/-- `t` is the end of the command of level `lv` that runs in `s`, one step per element read and one more away, with
CURSOR within the bounds of 40_decode_operation.md R106 and R107. -/
structure State.EndsAt (s : State) (lv : Level) (t : State) : Prop where
  run : Host.Core.run core (t.cursor - s.cursor + 1) s = .next t
  notBusy : t.busy = false
  done : t.done = true
  cursorLe : s.cursor ≤ t.cursor
  slack : t.cursor ≤ s.bitCount + lv.lmax
  perBit : s.par.boundCheck = .perBit → t.cursor ≤ s.bitCount

/-- A move leaves what the bounds of the command and its next step rest on (40_decode_operation.md R102). -/
theorem DecMove.keeps {s t : State} (move : DecMove s t) :
    t.par = s.par ∧ t.bitCount = s.bitCount ∧ t.stBrc = s.stBrc ∧ t.inbox = s.inbox := by
  rw [move.frame]
  exact ⟨rfl, rfl, rfl, rfl⟩

/-- The end of a command is its end from one element earlier. -/
theorem DecMove.endsAt {s s' t : State} {lv : Level} (move : DecMove s s') (hs : Machine.step s = .next s')
    (advance : s'.cursor = s.cursor + 1) (ends : s'.EndsAt lv t) : s.EndsAt lv t := by
  obtain ⟨run, notBusy, done, cursorLe, slack, perBit⟩ := ends
  obtain ⟨par, bitCount, -, -⟩ := move.keeps
  have steps : t.cursor - s.cursor + 1 = (t.cursor - s'.cursor + 1) + 1 := by omega
  exact ⟨by rw [steps, run_succ_of_next hs, run], notBusy, done, by omega, bitCount ▸ slack,
    par ▸ bitCount ▸ perBit⟩

/-- A running command ends, by induction on the elements that are left: CURSOR rises with each step that goes on, and
never beyond BITBUF_LEN (70_reset_and_hazards.md R252). -/
theorem State.Inv.exists_end {s : State} (h : s.Inv) (hb : s.busy = true) (quiet : s.inbox = []) {lv : Level}
    (level : Level.ofField s.stBrc = some lv) : ∃ t, s.EndsAt lv t := by
  induction left : s.par.bitbufLen - s.cursor using Nat.strong_induction_on generalizing s with
  | _ n ih =>
    obtain ⟨s', move⟩ := h.exists_move hb
    have hs := move.step hb quiet
    rcases move.ends_or_advances with ⟨notBusy, done, same⟩ | ⟨running, advance⟩
    · exact ⟨s', run_last same.symm hs, notBusy, done, same.ge, same ▸ h.cursor_le_of_busy hb level,
        same ▸ h.perBitCursor hb⟩
    · obtain ⟨par, -, stBrc, inbox⟩ := move.keeps
      have h' : s'.Inv := h.step hs
      have fewer : s'.par.bitbufLen - s'.cursor < n := by
        have := h'.cursorBound
        rw [par] at this ⊢
        omega
      obtain ⟨t, ends⟩ := ih _ fewer h' (running.trans hb) (inbox.trans quiet) (stBrc ▸ level) rfl
      exact ⟨t, move.endsAt hs advance ends⟩

/-- Settles O36, by `State.Inv.exists_end`. -/
theorem runningCommandEnds : Obligations.RunningCommandEnds := fun s lv h hb quiet level => by
  obtain ⟨t, run, notBusy, done, cursorLe, slack, perBit⟩ := h.exists_end hb quiet level
  exact ⟨_, t, run, notBusy, done, rfl, cursorLe, slack, perBit⟩

/-! ## No faults -/

/-- A check between two outcomes faults only where one of them does. -/
theorem ite_ne_fault {p : Prop} [Decidable p] {yes no : Out} {f : Fault} (hy : yes ≠ .fault f) (hn : no ≠ .fault f) :
    (if p then yes else no) ≠ .fault f := by
  split
  · exact hy
  · exact hn

theorem commit_ne_fault {s : State} {f : Fault} : State.commit s ≠ .fault f := nofun

theorem writeCmd_ne_fault {start : Bool} {brc : BrcField} {s : State} {f : Fault} :
    State.writeCmd start brc s ≠ .fault f :=
  ite_ne_fault nofun (ite_ne_fault commit_ne_fault commit_ne_fault)

/-- HWR writes CMD or a count, has no effect, or is refused (42_host_interface.md R191). -/
theorem execHwr_ne_fault {n v : Nat} {s : State} {f : Fault} : execHwr n v s ≠ .fault f := by
  refine ite_ne_fault ?_ nofun
  match n with
  | 0 => exact writeCmd_ne_fault
  | 1 | 2 => exact ite_ne_fault nofun commit_ne_fault
  | n + 3 => exact nofun

/-- No command row and no host transaction faults, in any state: each is dropped, performed or refused
(42_host_interface.md R190, R191). -/
theorem exec_ne_fault_of_host {i : Instr} (host : i.codeWord = none) (s : State) (f : Fault) :
    exec i s ≠ .fault f := by
  cases i with
  | decodeBrc0 | decodeBrc1 | decodeBrc2 | decodeBrc3 | decodeBrc4 | decodeBrc5 | decodeBrc6 | decodeBrc7 | cmdSet =>
    exact writeCmd_ne_fault
  | hwr => exact execHwr_ne_fault
  | hrd => exact nofun
  | bwr | owr => exact ite_ne_fault (ite_ne_fault (ite_ne_fault nofun commit_ne_fault) nofun) nofun
  | brd | ord => exact ite_ne_fault nofun nofun
  | _ => cases host

/-- From a state that meets the invariant no instruction faults: a code word that the matcher recognises is the DEC step
of a running command, and another one is refused (41_code_tables.md R175). -/
theorem State.Inv.exec_ne_fault {s : State} (h : s.Inv) (i : Instr) (f : Fault) : exec i s ≠ .fault f := by
  rcases row : i.codeWord with _ | x
  · exact exec_ne_fault_of_host row s f
  · by_cases next : s.nextCodeWord = some i
    · obtain ⟨hb, -⟩ := nextCodeWord_some next
      obtain ⟨t, hs⟩ := h.exists_decStep hb
      rw [← decStep_of_nextCodeWord next, hs]
      exact nofun
    · rw [exec_of_not_recognised (by simp [row]) next]
      exact nofun

/-- From a state that meets the invariant DEC never faults: it has no step while idle, and has one while busy
(40_decode_operation.md R92). -/
theorem State.Inv.decStep_ne_fault {s : State} (h : s.Inv) (f : Fault) : s.decStep ≠ .fault f := by
  rcases hb : s.busy with _ | _
  · rw [decStep_of_idle hb]
    exact nofun
  · obtain ⟨t, hs⟩ := h.exists_decStep hb
    rw [hs]
    exact nofun

/-- Settles O48, by the transition that is due: the invariant does not depend on what is pending, and a reset always
answers a next state. -/
theorem noStepFaults : Obligations.NoStepFaults := fun s h => by
  refine ⟨fun f => ?_, h.exists_decStep⟩
  rcases pending : s.inbox with _ | ⟨e, rest⟩
  · rw [step_of_inbox_nil pending]
    exact h.decStep_ne_fault f
  · have taken : State.Inv { s with inbox := rest } := { h with }
    rw [step_of_inbox_cons pending]
    cases e with
    | txn x => exact taken.exec_ne_fault (decodeTxn x) f
    | dec => exact taken.decStep_ne_fault f
    | reset => exact commit_ne_fault

end Sys2Proof.Machine
